-- ==== Sys2Proof/Word.lean ====
section
/-! DEFINITION. The word types of the Altair K1: opcodes, bytes, addresses (00_scope.md R4, R7). -/

namespace Sys2Proof

/-- One opcode: 32 bits (00_scope.md R4). -/
abbrev Word := BitVec 32

/-- One byte of a memory space (10_state.md R38). -/
abbrev Byte := BitVec 8

/-- A byte address as the program counter and the return-address storage hold it (10_state.md R25). -/
abbrev Addr := BitVec 64

/-- A general-register value (10_state.md R21). -/
abbrev XWord := BitVec 64

/-- A slot: the position 0 to 3 of an opcode in its bundle (00_scope.md R2). -/
abbrev Slot := Fin 4

end Sys2Proof
end

