-- ==== Sys2Proof/Syntax.lean ====
section
/-! DEFINITION. The syntax of the Altair K1: operand types and the one inductive of the 127 instructions of
spec/opcode_table.json (30_encoding.md R110 to R147). -/

namespace Sys2Proof

/-- A general-register number (30_encoding.md R108). -/
abbrev Reg := Fin 64

/-- A float-register number (10_state.md R33). -/
abbrev FReg := Fin 128

/-- A double-register number (10_state.md R34). -/
abbrev DReg := Fin 64

/-- A vector-register number (10_state.md R35). -/
abbrev VReg := Fin 32

/-- A *Label*: 14 bits, in units of 8 bytes (30_encoding.md R107). -/
abbrev Label := BitVec 14

/-- The *Size* field of the integer formats: 1, 2, 4 or 8 bytes (30_encoding.md R105). -/
inductive Size where
  | b
  | w
  | l
  | q
deriving DecidableEq, Repr

/-- The *Size* field of the vector formats: the lanes 0 to Size (45_vfpu.md R372). -/
inductive Lanes where
  | x
  | xy
  | xyz
  | xyzw
deriving DecidableEq, Repr

/-- The instructions, one constructor per row of spec/opcode_table.json. A register operand is the register the
encoding names, also where its field is shortened (10_state.md R23): which registers a shortened field can name is
checked in WellFormed. Left operands stand before right operands. -/
inductive Instr where
  -- BRU (41_bru.md)
  | cmp (left right : Reg) (size : Size)
  | cmpi (left : Reg) (imm : BitVec 20) (size : Size)
  | fcmp (left right : FReg)
  | fcmpi (left : FReg) (imm : BitVec 21)
  | dcmp (left right : DReg)
  | dcmpi (left : DReg) (imm : BitVec 22)
  | bne (label : Label)
  | beq (label : Label)
  | bl (label : Label)
  | ble (label : Label)
  | bg (label : Label)
  | bge (label : Label)
  | bls (label : Label)
  | bles (label : Label)
  | bgs (label : Label)
  | bges (label : Label)
  | call (label : Label)
  | jmp (label : Label)
  | callr (label : Label)
  | jmpr (label : Label)
  | ret
  -- LSU (42_lsu.md)
  | ldm (data base : Reg) (imm : BitVec 12) (size : Size) (inc : Bool)
  | stm (data base : Reg) (imm : BitVec 12) (size : Size) (inc : Bool)
  /-- `source` is the one-bit field, which LSX_SOURCE_MAP maps to a register (30_encoding.md R120). -/
  | ldmx (data : Reg) (source : Bool) (imm : BitVec 16) (size : Size)
  /-- `source` as for `ldmx`. -/
  | stmx (data : Reg) (source : Bool) (imm : BitVec 16) (size : Size)
  /-- IN (42_lsu.md R236). -/
  | inp (data : Reg) (addr : BitVec 8) (size : Size)
  | out (data : Reg) (addr : BitVec 8) (size : Size)
  | outi (addr : BitVec 8) (imm : BitVec 16) (size : Size)
  | ldc (data base : Reg) (imm : BitVec 12) (size : Size) (inc : Bool)
  | stc (data base : Reg) (imm : BitVec 12) (size : Size) (inc : Bool)
  | ldmv (data : VReg) (base : Reg) (imm : BitVec 15) (inc : Bool)
  | stmv (data : VReg) (base : Reg) (imm : BitVec 15) (inc : Bool)
  | ldcv (data : VReg) (base : Reg) (imm : BitVec 15) (inc : Bool)
  | stcv (data : VReg) (base : Reg) (imm : BitVec 15) (inc : Bool)
  | ldmf (data : FReg) (base : Reg) (imm : BitVec 15) (inc : Bool)
  | stmf (data : FReg) (base : Reg) (imm : BitVec 15) (inc : Bool)
  | ldcf (data : FReg) (base : Reg) (imm : BitVec 15) (inc : Bool)
  | stcf (data : FReg) (base : Reg) (imm : BitVec 15) (inc : Bool)
  | ldmd (data : DReg) (base : Reg) (imm : BitVec 16) (inc : Bool)
  | stmd (data : DReg) (base : Reg) (imm : BitVec 16) (inc : Bool)
  | ldcd (data : DReg) (base : Reg) (imm : BitVec 16) (inc : Bool)
  | stcd (data : DReg) (base : Reg) (imm : BitVec 16) (inc : Bool)
  -- ALU (43_alu.md)
  | xchg
  /-- `fin` is the *End* bit (43_alu.md R283). -/
  | nop (fin : Bool)
  | add (dst left right : Reg) (size : Size)
  | sub (dst left right : Reg) (size : Size)
  | muls (dst left right : Reg) (size : Size)
  | mulu (dst left right : Reg) (size : Size)
  | divs (dst left right : Reg) (size : Size)
  | divu (dst left right : Reg) (size : Size)
  | and (dst left right : Reg) (size : Size)
  | or (dst left right : Reg) (size : Size)
  | xor (dst left right : Reg) (size : Size)
  | asl (dst left right : Reg) (size : Size)
  | lsl (dst left right : Reg) (size : Size)
  | asr (dst left right : Reg) (size : Size)
  | lsr (dst left right : Reg) (size : Size)
  | addi (dst left : Reg) (imm : BitVec 10) (size : Size)
  | subi (dst left : Reg) (imm : BitVec 10) (size : Size)
  | mulsi (dst left : Reg) (imm : BitVec 10) (size : Size)
  | mului (dst left : Reg) (imm : BitVec 10) (size : Size)
  | divsi (dst left : Reg) (imm : BitVec 10) (size : Size)
  | divui (dst left : Reg) (imm : BitVec 10) (size : Size)
  | andi (dst left : Reg) (imm : BitVec 10) (size : Size)
  | ori (dst left : Reg) (imm : BitVec 10) (size : Size)
  | xori (dst left : Reg) (imm : BitVec 10) (size : Size)
  | asli (dst left : Reg) (imm : BitVec 10) (size : Size)
  | lsli (dst left : Reg) (imm : BitVec 10) (size : Size)
  | asri (dst left : Reg) (imm : BitVec 10) (size : Size)
  | lsri (dst left : Reg) (imm : BitVec 10) (size : Size)
  | addq (dst : Reg) (imm : BitVec 16) (size : Size)
  | subq (dst : Reg) (imm : BitVec 16) (size : Size)
  | mulsq (dst : Reg) (imm : BitVec 16) (size : Size)
  | muluq (dst : Reg) (imm : BitVec 16) (size : Size)
  | divsq (dst : Reg) (imm : BitVec 16) (size : Size)
  | divuq (dst : Reg) (imm : BitVec 16) (size : Size)
  | andq (dst : Reg) (imm : BitVec 16) (size : Size)
  | orq (dst : Reg) (imm : BitVec 16) (size : Size)
  | xorq (dst : Reg) (imm : BitVec 16) (size : Size)
  | aslq (dst : Reg) (imm : BitVec 16) (size : Size)
  | lslq (dst : Reg) (imm : BitVec 16) (size : Size)
  | asrq (dst : Reg) (imm : BitVec 16) (size : Size)
  | lsrq (dst : Reg) (imm : BitVec 16) (size : Size)
  | movei (dst : Reg) (imm : BitVec 22)
  -- AGU (44_agu.md)
  /-- `long`: the *Size* bit, 32 bytes or 64 (30_encoding.md R133). -/
  | lddma (ramReg dsReg : Reg) (ramBase dsBase : BitVec 12) (long : Bool)
  /-- Operands as for `lddma`. -/
  | stdma (ramReg dsReg : Reg) (ramBase dsBase : BitVec 12) (long : Bool)
  | lddmar (dsReg ramReg : Reg) (blocks : BitVec 12)
  | stdmar (dsReg ramReg : Reg) (blocks : BitVec 12)
  | dmair (isReg ramReg : Reg) (blocks : BitVec 12)
  | wait
  -- VFPU and VDIV (45_vfpu.md)
  | faddVv (dst left right : VReg) (lanes : Lanes)
  | fsubVv (dst left right : VReg) (lanes : Lanes)
  | fmulVv (dst left right : VReg) (lanes : Lanes)
  | fmuladdVv (dst left right : VReg) (lanes : Lanes)
  | faddVf (dst left : VReg) (right : FReg) (lanes : Lanes)
  | fsubVf (dst left : VReg) (right : FReg) (lanes : Lanes)
  | fmulVf (dst left : VReg) (right : FReg) (lanes : Lanes)
  | fmuladdVf (dst left : VReg) (right : FReg) (lanes : Lanes)
  | fmulva (vec : VReg) (float : FReg) (lanes : Lanes)
  | fmuladdva (vec : VReg) (float : FReg) (lanes : Lanes)
  | fmuladdvao (dst vec : VReg) (float : FReg) (lanes : Lanes)
  /-- The *Float* field is the destination (45_vfpu.md R387). -/
  | fipr (dst : FReg) (vec1 vec2 : VReg) (lanes : Lanes)
  | faddD (dst left right : DReg)
  | fsubD (dst left right : DReg)
  | fmulD (dst left right : DReg)
  | fmuladdD (dst left right : DReg)
  | cvtF2d (dst : DReg) (src : FReg)
  | cvtD2f (dst : FReg) (src : DReg)
  | itof0 (dst : VReg) (src : Reg) (lanes : Lanes)
  | itof4 (dst : VReg) (src : Reg) (lanes : Lanes)
  | itof8 (dst : VReg) (src : Reg) (lanes : Lanes)
  | itof15 (dst : VReg) (src : Reg) (lanes : Lanes)
  | ftoi0 (dst : Reg) (src : VReg) (lanes : Lanes)
  | ftoi4 (dst : Reg) (src : VReg) (lanes : Lanes)
  | ftoi8 (dst : Reg) (src : VReg) (lanes : Lanes)
  | ftoi15 (dst : Reg) (src : VReg) (lanes : Lanes)
  | cvtI2f (dst : FReg) (src : Reg) (size : Size)
  | cvtF2i (dst : Reg) (src : FReg) (size : Size)
  | cvtI2d (dst : DReg) (src : Reg) (size : Size)
  | cvtD2i (dst : Reg) (src : DReg) (size : Size)
  | fdiv (dst left right : FReg)
  /-- Both source fields are kept: SQRT_OPERAND chooses (45_vfpu.md R419). -/
  | fsqrt (dst source1 source2 : FReg)
  | ddiv (dst left right : DReg)
  /-- Both source fields are kept, as for `fsqrt`. -/
  | dsqrt (dst source1 source2 : DReg)
  | movefi (dst : FReg) (imm : BitVec 21)
  | movedi (dst : DReg) (imm : BitVec 22)
  | movevi (dst : VReg) (imm : BitVec 23)
deriving DecidableEq, Repr

/-- The names of the instructions, without operands: what the parameters IMM_SIGNED and LATENCY speak of
(92_eei_decisions.md D7, 70_reset_and_hazards.md R483). -/
inductive Mnemonic where
  | cmp | cmpi | fcmp | fcmpi | dcmp | dcmpi | bne | beq | bl | ble | bg | bge | bls | bles | bgs | bges | call
  | jmp | callr | jmpr | ret | ldm | stm | ldmx | stmx | inp | out | outi | ldc | stc | ldmv | stmv | ldcv | stcv
  | ldmf | stmf | ldcf | stcf | ldmd | stmd | ldcd | stcd | xchg | nop | add | sub | muls | mulu | divs | divu
  | and | or | xor | asl | lsl | asr | lsr | addi | subi | mulsi | mului | divsi | divui | andi | ori | xori | asli
  | lsli | asri | lsri | addq | subq | mulsq | muluq | divsq | divuq | andq | orq | xorq | aslq | lslq | asrq
  | lsrq | movei | lddma | stdma | lddmar | stdmar | dmair | wait | faddVv | fsubVv | fmulVv | fmuladdVv | faddVf
  | fsubVf | fmulVf | fmuladdVf | fmulva | fmuladdva | fmuladdvao | fipr | faddD | fsubD | fmulD | fmuladdD
  | cvtF2d | cvtD2f | itof0 | itof4 | itof8 | itof15 | ftoi0 | ftoi4 | ftoi8 | ftoi15 | cvtI2f | cvtF2i | cvtI2d
  | cvtD2i | fdiv | fsqrt | ddiv | dsqrt | movefi | movedi | movevi
deriving DecidableEq, Repr

/-- The name of an instruction. -/
def Instr.mnemonic : Instr → Mnemonic
  | .cmp _ _ _ => .cmp
  | .cmpi _ _ _ => .cmpi
  | .fcmp _ _ => .fcmp
  | .fcmpi _ _ => .fcmpi
  | .dcmp _ _ => .dcmp
  | .dcmpi _ _ => .dcmpi
  | .bne _ => .bne
  | .beq _ => .beq
  | .bl _ => .bl
  | .ble _ => .ble
  | .bg _ => .bg
  | .bge _ => .bge
  | .bls _ => .bls
  | .bles _ => .bles
  | .bgs _ => .bgs
  | .bges _ => .bges
  | .call _ => .call
  | .jmp _ => .jmp
  | .callr _ => .callr
  | .jmpr _ => .jmpr
  | .ret => .ret
  | .ldm _ _ _ _ _ => .ldm
  | .stm _ _ _ _ _ => .stm
  | .ldmx _ _ _ _ => .ldmx
  | .stmx _ _ _ _ => .stmx
  | .inp _ _ _ => .inp
  | .out _ _ _ => .out
  | .outi _ _ _ => .outi
  | .ldc _ _ _ _ _ => .ldc
  | .stc _ _ _ _ _ => .stc
  | .ldmv _ _ _ _ => .ldmv
  | .stmv _ _ _ _ => .stmv
  | .ldcv _ _ _ _ => .ldcv
  | .stcv _ _ _ _ => .stcv
  | .ldmf _ _ _ _ => .ldmf
  | .stmf _ _ _ _ => .stmf
  | .ldcf _ _ _ _ => .ldcf
  | .stcf _ _ _ _ => .stcf
  | .ldmd _ _ _ _ => .ldmd
  | .stmd _ _ _ _ => .stmd
  | .ldcd _ _ _ _ => .ldcd
  | .stcd _ _ _ _ => .stcd
  | .xchg => .xchg
  | .nop _ => .nop
  | .add _ _ _ _ => .add
  | .sub _ _ _ _ => .sub
  | .muls _ _ _ _ => .muls
  | .mulu _ _ _ _ => .mulu
  | .divs _ _ _ _ => .divs
  | .divu _ _ _ _ => .divu
  | .and _ _ _ _ => .and
  | .or _ _ _ _ => .or
  | .xor _ _ _ _ => .xor
  | .asl _ _ _ _ => .asl
  | .lsl _ _ _ _ => .lsl
  | .asr _ _ _ _ => .asr
  | .lsr _ _ _ _ => .lsr
  | .addi _ _ _ _ => .addi
  | .subi _ _ _ _ => .subi
  | .mulsi _ _ _ _ => .mulsi
  | .mului _ _ _ _ => .mului
  | .divsi _ _ _ _ => .divsi
  | .divui _ _ _ _ => .divui
  | .andi _ _ _ _ => .andi
  | .ori _ _ _ _ => .ori
  | .xori _ _ _ _ => .xori
  | .asli _ _ _ _ => .asli
  | .lsli _ _ _ _ => .lsli
  | .asri _ _ _ _ => .asri
  | .lsri _ _ _ _ => .lsri
  | .addq _ _ _ => .addq
  | .subq _ _ _ => .subq
  | .mulsq _ _ _ => .mulsq
  | .muluq _ _ _ => .muluq
  | .divsq _ _ _ => .divsq
  | .divuq _ _ _ => .divuq
  | .andq _ _ _ => .andq
  | .orq _ _ _ => .orq
  | .xorq _ _ _ => .xorq
  | .aslq _ _ _ => .aslq
  | .lslq _ _ _ => .lslq
  | .asrq _ _ _ => .asrq
  | .lsrq _ _ _ => .lsrq
  | .movei _ _ => .movei
  | .lddma _ _ _ _ _ => .lddma
  | .stdma _ _ _ _ _ => .stdma
  | .lddmar _ _ _ => .lddmar
  | .stdmar _ _ _ => .stdmar
  | .dmair _ _ _ => .dmair
  | .wait => .wait
  | .faddVv _ _ _ _ => .faddVv
  | .fsubVv _ _ _ _ => .fsubVv
  | .fmulVv _ _ _ _ => .fmulVv
  | .fmuladdVv _ _ _ _ => .fmuladdVv
  | .faddVf _ _ _ _ => .faddVf
  | .fsubVf _ _ _ _ => .fsubVf
  | .fmulVf _ _ _ _ => .fmulVf
  | .fmuladdVf _ _ _ _ => .fmuladdVf
  | .fmulva _ _ _ => .fmulva
  | .fmuladdva _ _ _ => .fmuladdva
  | .fmuladdvao _ _ _ _ => .fmuladdvao
  | .fipr _ _ _ _ => .fipr
  | .faddD _ _ _ => .faddD
  | .fsubD _ _ _ => .fsubD
  | .fmulD _ _ _ => .fmulD
  | .fmuladdD _ _ _ => .fmuladdD
  | .cvtF2d _ _ => .cvtF2d
  | .cvtD2f _ _ => .cvtD2f
  | .itof0 _ _ _ => .itof0
  | .itof4 _ _ _ => .itof4
  | .itof8 _ _ _ => .itof8
  | .itof15 _ _ _ => .itof15
  | .ftoi0 _ _ _ => .ftoi0
  | .ftoi4 _ _ _ => .ftoi4
  | .ftoi8 _ _ _ => .ftoi8
  | .ftoi15 _ _ _ => .ftoi15
  | .cvtI2f _ _ _ => .cvtI2f
  | .cvtF2i _ _ _ => .cvtF2i
  | .cvtI2d _ _ _ => .cvtI2d
  | .cvtD2i _ _ _ => .cvtD2i
  | .fdiv _ _ _ => .fdiv
  | .fsqrt _ _ _ => .fsqrt
  | .ddiv _ _ _ => .ddiv
  | .dsqrt _ _ _ => .dsqrt
  | .movefi _ _ => .movefi
  | .movedi _ _ => .movedi
  | .movevi _ _ => .movevi

end Sys2Proof
end

