-- ==== Sys2Proof/WellFormed.lean ====
section
/-! DEFINITION. Well-formed instructions and bundles: the registers a shortened field can name, the sizes a short
Size field can name, the slots at which an instruction is legal (10_state.md R23, 40_bundle.md R163). -/

namespace Sys2Proof

/-- The units an instruction may issue to, as the slot table distinguishes them (40_bundle.md R163). -/
inductive IssueClass where
  | bru
  | load
  | store
  | xchg
  | alu
  | agu
  | vfpu
  | vdiv
deriving DecidableEq, Repr

/-- The slots at which a class is legal (30_encoding.md R101, R102; 40_bundle.md R163). -/
def IssueClass.legalIn : IssueClass → Slot → Bool
  | .bru, k => k == 0
  | .load, k => k.val < 2
  | .store, k => k == 1
  | .xchg, k => k == 0
  | .alu, _ => true
  | .agu, k => k == 1
  | .vfpu, k => k.val < 2
  | .vdiv, k => k == 0

/-- The class of every instruction (41_bru.md to 45_vfpu.md, the Slots entry of each rule). -/
def Instr.issueClass : Instr → IssueClass
  | .cmp _ _ _ | .cmpi _ _ _ | .fcmp _ _ | .fcmpi _ _ | .dcmp _ _ | .dcmpi _ _ | .bne _ | .beq _ | .bl _
  | .ble _ | .bg _ | .bge _ | .bls _ | .bles _ | .bgs _ | .bges _ | .call _ | .jmp _ | .callr _ | .jmpr _
  | .ret => .bru
  | .ldm _ _ _ _ _ | .ldmx _ _ _ _ | .inp _ _ _ | .ldc _ _ _ _ _ | .ldmv _ _ _ _ | .ldcv _ _ _ _
  | .ldmf _ _ _ _ | .ldcf _ _ _ _ | .ldmd _ _ _ _ | .ldcd _ _ _ _ => .load
  | .stm _ _ _ _ _ | .stmx _ _ _ _ | .out _ _ _ | .outi _ _ _ | .stc _ _ _ _ _ | .stmv _ _ _ _
  | .stcv _ _ _ _ | .stmf _ _ _ _ | .stcf _ _ _ _ | .stmd _ _ _ _ | .stcd _ _ _ _ => .store
  | .xchg => .xchg
  | .nop _ | .add _ _ _ _ | .sub _ _ _ _ | .muls _ _ _ _ | .mulu _ _ _ _ | .divs _ _ _ _ | .divu _ _ _ _
  | .and _ _ _ _ | .or _ _ _ _ | .xor _ _ _ _ | .asl _ _ _ _ | .lsl _ _ _ _ | .asr _ _ _ _ | .lsr _ _ _ _
  | .addi _ _ _ _ | .subi _ _ _ _ | .mulsi _ _ _ _ | .mului _ _ _ _ | .divsi _ _ _ _ | .divui _ _ _ _
  | .andi _ _ _ _ | .ori _ _ _ _ | .xori _ _ _ _ | .asli _ _ _ _ | .lsli _ _ _ _ | .asri _ _ _ _
  | .lsri _ _ _ _ | .addq _ _ _ | .subq _ _ _ | .mulsq _ _ _ | .muluq _ _ _ | .divsq _ _ _ | .divuq _ _ _
  | .andq _ _ _ | .orq _ _ _ | .xorq _ _ _ | .aslq _ _ _ | .lslq _ _ _ | .asrq _ _ _ | .lsrq _ _ _
  | .movei _ _ => .alu
  | .lddma _ _ _ _ _ | .stdma _ _ _ _ _ | .lddmar _ _ _ | .stdmar _ _ _ | .dmair _ _ _ | .wait => .agu
  | .faddVv _ _ _ _ | .fsubVv _ _ _ _ | .fmulVv _ _ _ _ | .fmuladdVv _ _ _ _ | .faddVf _ _ _ _
  | .fsubVf _ _ _ _ | .fmulVf _ _ _ _ | .fmuladdVf _ _ _ _ | .fmulva _ _ _ | .fmuladdva _ _ _
  | .fmuladdvao _ _ _ _ | .fipr _ _ _ _ | .faddD _ _ _ | .fsubD _ _ _ | .fmulD _ _ _ | .fmuladdD _ _ _
  | .cvtF2d _ _ | .cvtD2f _ _ | .itof0 _ _ _ | .itof4 _ _ _ | .itof8 _ _ _ | .itof15 _ _ _ | .ftoi0 _ _ _
  | .ftoi4 _ _ _ | .ftoi8 _ _ _ | .ftoi15 _ _ _ | .cvtI2f _ _ _ | .cvtF2i _ _ _ | .cvtI2d _ _ _
  | .cvtD2i _ _ _ | .movefi _ _ | .movedi _ _ | .movevi _ _ => .vfpu
  | .fdiv _ _ _ | .fsqrt _ _ _ | .ddiv _ _ _ | .dsqrt _ _ _ => .vdiv

/-- Whether an instruction may stand in a slot (40_bundle.md R163). -/
def Instr.legalIn (i : Instr) (k : Slot) : Bool := i.issueClass.legalIn k

/-- r60 to r63: the registers a 2-bit address field names (10_state.md R23). -/
def Reg.inBase60 (r : Reg) : Bool := 60 ≤ r.val

/-- r56 to r63: the registers a 3-bit address field names (10_state.md R23). -/
def Reg.inBase56 (r : Reg) : Bool := 56 ≤ r.val

/-- r58 and r59: the registers the *RAM address* bit names (10_state.md R23). -/
def Reg.inBase58 (r : Reg) : Bool := r.val == 58 || r.val == 59

/-- The sizes the one-bit Size field of OUTI names (30_encoding.md R122). -/
def Size.isShort : Size → Bool
  | .b | .w => true
  | .l | .q => false

/-- The operands are ones the instruction's encoding can name. -/
def Instr.wf : Instr → Bool
  | .outi _ _ size => size.isShort
  | .ldmv _ base _ _ => base.inBase56
  | .stmv _ base _ _ => base.inBase56
  | .ldcv _ base _ _ => base.inBase56
  | .stcv _ base _ _ => base.inBase56
  | .ldmf _ base _ _ => base.inBase60
  | .stmf _ base _ _ => base.inBase60
  | .ldcf _ base _ _ => base.inBase60
  | .stcf _ base _ _ => base.inBase60
  | .ldmd _ base _ _ => base.inBase60
  | .stmd _ base _ _ => base.inBase60
  | .ldcd _ base _ _ => base.inBase60
  | .stcd _ base _ _ => base.inBase60
  | .lddma ramReg dsReg _ _ _ => ramReg.inBase58 && dsReg.inBase60
  | .stdma ramReg dsReg _ _ _ => ramReg.inBase58 && dsReg.inBase60
  | .cmp _ _ _ | .cmpi _ _ _ | .fcmp _ _ | .fcmpi _ _ | .dcmp _ _ | .dcmpi _ _ | .bne _ | .beq _ | .bl _
  | .ble _ | .bg _ | .bge _ | .bls _ | .bles _ | .bgs _ | .bges _ | .call _ | .jmp _ | .callr _ | .jmpr _
  | .ret | .ldm _ _ _ _ _ | .stm _ _ _ _ _ | .ldmx _ _ _ _ | .stmx _ _ _ _ | .inp _ _ _ | .out _ _ _
  | .ldc _ _ _ _ _ | .stc _ _ _ _ _ | .xchg | .nop _ | .add _ _ _ _ | .sub _ _ _ _ | .muls _ _ _ _
  | .mulu _ _ _ _ | .divs _ _ _ _ | .divu _ _ _ _ | .and _ _ _ _ | .or _ _ _ _ | .xor _ _ _ _ | .asl _ _ _ _
  | .lsl _ _ _ _ | .asr _ _ _ _ | .lsr _ _ _ _ | .addi _ _ _ _ | .subi _ _ _ _ | .mulsi _ _ _ _
  | .mului _ _ _ _ | .divsi _ _ _ _ | .divui _ _ _ _ | .andi _ _ _ _ | .ori _ _ _ _ | .xori _ _ _ _
  | .asli _ _ _ _ | .lsli _ _ _ _ | .asri _ _ _ _ | .lsri _ _ _ _ | .addq _ _ _ | .subq _ _ _ | .mulsq _ _ _
  | .muluq _ _ _ | .divsq _ _ _ | .divuq _ _ _ | .andq _ _ _ | .orq _ _ _ | .xorq _ _ _ | .aslq _ _ _
  | .lslq _ _ _ | .asrq _ _ _ | .lsrq _ _ _ | .movei _ _ | .lddmar _ _ _ | .stdmar _ _ _ | .dmair _ _ _
  | .wait | .faddVv _ _ _ _ | .fsubVv _ _ _ _ | .fmulVv _ _ _ _ | .fmuladdVv _ _ _ _ | .faddVf _ _ _ _
  | .fsubVf _ _ _ _ | .fmulVf _ _ _ _ | .fmuladdVf _ _ _ _ | .fmulva _ _ _ | .fmuladdva _ _ _
  | .fmuladdvao _ _ _ _ | .fipr _ _ _ _ | .faddD _ _ _ | .fsubD _ _ _ | .fmulD _ _ _ | .fmuladdD _ _ _
  | .cvtF2d _ _ | .cvtD2f _ _ | .itof0 _ _ _ | .itof4 _ _ _ | .itof8 _ _ _ | .itof15 _ _ _ | .ftoi0 _ _ _
  | .ftoi4 _ _ _ | .ftoi8 _ _ _ | .ftoi15 _ _ _ | .cvtI2f _ _ _ | .cvtF2i _ _ _ | .cvtI2d _ _ _
  | .cvtD2i _ _ _ | .fdiv _ _ _ | .fsqrt _ _ _ | .ddiv _ _ _ | .dsqrt _ _ _ | .movefi _ _ | .movedi _ _
  | .movevi _ _ => true

/-- A bundle of two or four opcodes, each well formed and at a slot where it is legal (40_bundle.md R161, R163). -/
def wfBundle : List Instr → Bool
  | [a, b] => a.wf && b.wf && a.legalIn 0 && b.legalIn 1
  | [a, b, c, e] =>
    a.wf && b.wf && c.wf && e.wf && a.legalIn 0 && b.legalIn 1 && c.legalIn 2 && e.legalIn 3
  | _ => false

end Sys2Proof
end

