-- ==== Sys2Proof/Decode.lean ====
section
/-! DEFINITION. Decoding a word at a slot (30_encoding.md R100 to R151, R500 to R504), total, rejecting by name;
then the encoder, written from the same format tables; then the reading of one word of spec/opcode_table.json. -/

namespace Sys2Proof

/-- Why a word is Illegal at a slot. Each is raised by `decode` alone; all end in `IllegalOpcode`, which stops the
machine where the hardware's behaviour is not stated (safe). -/
inductive DecodeError where
  /-- the (CU, slot) pair is Illegal (30_encoding.md R149 a) -/
  | unitNotInSlot
  /-- BRU branching Category 1 (R149 b) -/
  | branchCategory
  /-- branch Comparator 10 to 15 (R149 c) -/
  | branchComparator
  /-- ALU Category 0 Type 1, 3, 4, 5, 7 (R149 d) -/
  | aluType
  /-- ALU OP 13, 14, 15 (R149 e) -/
  | aluOp
  /-- AGU list Type 2 to 14 (R149 f) -/
  | aguType
  /-- DMAIR with Store = 1 (R149 g) -/
  | dmairStore
  /-- XCHG in slots 1 to 3 (R150) -/
  | xchgSlot
  /-- a divide or square root of the VDIV in slot 1 (R150) -/
  | vdivSlot
  /-- an LSU store in slot 0 (R150) -/
  | storeSlot
  /-- the VFPU Moves space (R148) -/
  | vfpuMoves
  /-- a bit that the format prints as 0, or omits, is 1 (R103, R151) -/
  | reservedBits
deriving DecidableEq, Repr

/-! ### Bit fields and byte order -/

/-- `w[hi:lo]`, inclusive, unsigned (00_scope.md R6). -/
def field (w : Word) (hi lo : Nat) : Nat := w.toNat / 2 ^ lo % 2 ^ (hi + 1 - lo)

/-- `w[i] = 1`. -/
def bit (w : Word) (i : Nat) : Bool := field w i i == 1

/-- The value of bytes, the first at the lowest address and least significant (20_memory.md R60, R61). -/
def leNat : List Byte → Nat
  | [] => 0
  | b :: bs => b.toNat + 256 * leNat bs

/-- The `n` low bytes of a value, the least significant first (20_memory.md R61, R66). -/
def leBytes : (n : Nat) → (value : Nat) → List Byte
  | 0, _ => []
  | n + 1, v => BitVec.ofNat 8 v :: leBytes n (v / 256)

/-- The opcode whose bytes lie at ascending addresses (00_scope.md R7). -/
def wordOfBytes (bs : List Byte) : Word := BitVec.ofNat 32 (leNat bs)

/-- The four bytes of an opcode, the lowest address first (00_scope.md R7). -/
def bytesOfWord (w : Word) : List Byte := leBytes 4 w.toNat

/-! ### Operand fields -/

/-- A 6-bit general- or double-register field (30_encoding.md R108). -/
def reg6 (w : Word) (hi lo : Nat) : Fin 64 := Fin.ofNat 64 (field w hi lo)

/-- A 7-bit float-register field (30_encoding.md R108). -/
def reg7 (w : Word) (hi lo : Nat) : FReg := Fin.ofNat 128 (field w hi lo)

/-- A 5-bit vector-register field (30_encoding.md R108). -/
def reg5 (w : Word) (hi lo : Nat) : VReg := Fin.ofNat 32 (field w hi lo)

/-- A shortened register field: a fixed base plus the field (10_state.md R23). -/
def regBased (first : Nat) (w : Word) (hi lo : Nat) : Reg := Fin.ofNat 64 (first + field w hi lo)

/-- An immediate field of `n` bits. -/
def imm (n : Nat) (w : Word) (hi lo : Nat) : BitVec n := BitVec.ofNat n (field w hi lo)

/-- The Size a field value names (30_encoding.md R105). -/
def Size.ofField : Nat → Size
  | 0 => .b
  | 1 => .w
  | 2 => .l
  | _ => .q

/-- The field value of a Size (30_encoding.md R105). -/
def Size.toField : Size → Nat
  | .b => 0
  | .w => 1
  | .l => 2
  | .q => 3

/-- The lanes a field value names (30_encoding.md R135). -/
def Lanes.ofField : Nat → Lanes
  | 0 => .x
  | 1 => .xy
  | 2 => .xyz
  | _ => .xyzw

/-- The field value of a lane selection: the number of lanes minus one (30_encoding.md R135). -/
def Lanes.toField : Lanes → Nat
  | .x => 0
  | .xy => 1
  | .xyz => 2
  | .xyzw => 3

/-- The word is the instruction when the bits its format prints as constants have their values (30_encoding.md R103).
-/
def whenZero (reserved : Nat) (i : Instr) : Except DecodeError Instr :=
  if reserved = 0 then .ok i else .error .reservedBits

/-! ### BRU: CU = 0 in slot 0 (30_encoding.md R500) -/

/-- Format BCC (30_encoding.md R113). -/
def decodeBranch (w : Word) : Except DecodeError Instr :=
  let label : Label := imm 14 w 25 12
  match field w 11 8 with
  | 0 => whenZero (field w 31 26) (.bne label)
  | 1 => whenZero (field w 31 26) (.beq label)
  | 2 => whenZero (field w 31 26) (.bl label)
  | 3 => whenZero (field w 31 26) (.ble label)
  | 4 => whenZero (field w 31 26) (.bg label)
  | 5 => whenZero (field w 31 26) (.bge label)
  | 6 => whenZero (field w 31 26) (.bls label)
  | 7 => whenZero (field w 31 26) (.bles label)
  | 8 => whenZero (field w 31 26) (.bgs label)
  | 9 => whenZero (field w 31 26) (.bges label)
  | _ => .error .branchComparator

/-- Format JMP (30_encoding.md R114). -/
def decodeJump (w : Word) : Except DecodeError Instr :=
  let label : Label := imm 14 w 25 12
  let reserved := field w 31 26 + field w 11 10
  match field w 9 8 with
  | 0 => whenZero reserved (.call label)
  | 1 => whenZero reserved (.jmp label)
  | 2 => whenZero reserved (.callr label)
  | _ => whenZero reserved (.jmpr label)

/-- The BRU decode tree (30_encoding.md R500, R110 to R118). -/
def decodeBru (w : Word) : Except DecodeError Instr :=
  match field w 3 2 with
  | 0 =>
    match field w 5 4 with
    | 0 => whenZero (field w 19 10 + field w 7 6) (.cmp (reg6 w 31 26) (reg6 w 25 20) (.ofField (field w 9 8)))
    | 1 => whenZero (field w 17 6) (.fcmp (reg7 w 31 25) (reg7 w 24 18))
    | 2 => whenZero (field w 19 6) (.dcmp (reg6 w 31 26) (reg6 w 25 20))
    | _ =>
      match field w 7 6 with
      | 0 => decodeBranch w
      | 1 => .error .branchCategory
      | 2 => decodeJump w
      | _ => whenZero (field w 31 8) .ret
  | 1 => .ok (.cmpi (reg6 w 31 26) (imm 20 w 25 6) (.ofField (field w 5 4)))
  | 2 => .ok (.fcmpi (reg7 w 31 25) (imm 21 w 24 4))
  | _ => .ok (.dcmpi (reg6 w 31 26) (imm 22 w 25 4))

/-! ### LSU: CU = 1 in slots 0 and 1 (30_encoding.md R501) -/

/-- The LSU decode tree (30_encoding.md R501, R119 to R125). -/
def decodeLsu (w : Word) : Except DecodeError Instr :=
  match field w 3 2 with
  | 0 =>
    let size := Size.ofField (field w 7 6)
    if bit w 5 then .ok (.stm (reg6 w 31 26) (reg6 w 25 20) (imm 12 w 19 8) size (bit w 4))
    else .ok (.ldm (reg6 w 31 26) (reg6 w 25 20) (imm 12 w 19 8) size (bit w 4))
  | 1 =>
    match field w 5 4 with
    | 0 =>
      let size := Size.ofField (field w 8 7)
      if bit w 6 then .ok (.stmx (reg6 w 31 26) (bit w 25) (imm 16 w 24 9) size)
      else .ok (.ldmx (reg6 w 31 26) (bit w 25) (imm 16 w 24 9) size)
    | 1 =>
      let size := Size.ofField (field w 8 7)
      let reserved := field w 25 24 + field w 15 9
      if bit w 6 then whenZero reserved (.out (reg6 w 31 26) (imm 8 w 23 16) size)
      else whenZero reserved (.inp (reg6 w 31 26) (imm 8 w 23 16) size)
    | 2 => whenZero (field w 6 6) (.outi (imm 8 w 31 24) (imm 16 w 23 8) (.ofField (field w 7 7)))
    | _ =>
      let base := regBased 56 w 26 24
      match bit w 7, bit w 6 with
      | false, false => .ok (.ldmv (reg5 w 31 27) base (imm 15 w 23 9) (bit w 8))
      | false, true => .ok (.stmv (reg5 w 31 27) base (imm 15 w 23 9) (bit w 8))
      | true, false => .ok (.ldcv (reg5 w 31 27) base (imm 15 w 23 9) (bit w 8))
      | true, true => .ok (.stcv (reg5 w 31 27) base (imm 15 w 23 9) (bit w 8))
  | 2 =>
    let size := Size.ofField (field w 7 6)
    if bit w 5 then .ok (.stc (reg6 w 31 26) (reg6 w 25 20) (imm 12 w 19 8) size (bit w 4))
    else .ok (.ldc (reg6 w 31 26) (reg6 w 25 20) (imm 12 w 19 8) size (bit w 4))
  | _ =>
    if bit w 4 then
      let base := regBased 60 w 25 24
      match bit w 5, bit w 6 with
      | false, false => .ok (.ldmd (reg6 w 31 26) base (imm 16 w 23 8) (bit w 7))
      | false, true => .ok (.stmd (reg6 w 31 26) base (imm 16 w 23 8) (bit w 7))
      | true, false => .ok (.ldcd (reg6 w 31 26) base (imm 16 w 23 8) (bit w 7))
      | true, true => .ok (.stcd (reg6 w 31 26) base (imm 16 w 23 8) (bit w 7))
    else
      let base := regBased 60 w 24 23
      match bit w 5, bit w 6 with
      | false, false => .ok (.ldmf (reg7 w 31 25) base (imm 15 w 22 8) (bit w 7))
      | false, true => .ok (.stmf (reg7 w 31 25) base (imm 15 w 22 8) (bit w 7))
      | true, false => .ok (.ldcf (reg7 w 31 25) base (imm 15 w 22 8) (bit w 7))
      | true, true => .ok (.stcf (reg7 w 31 25) base (imm 15 w 22 8) (bit w 7))

/-! ### ALU: CU = 2 in every slot (30_encoding.md R502) -/

/-- Format RRR (30_encoding.md R128, R132). -/
def decodeRrr (w : Word) : Except DecodeError Instr :=
  let dst := reg6 w 31 26
  let left := reg6 w 25 20
  let right := reg6 w 19 14
  let size := Size.ofField (field w 13 12)
  let reserved := field w 7 7
  match field w 11 8 with
  | 0 => whenZero reserved (.add dst left right size)
  | 1 => whenZero reserved (.sub dst left right size)
  | 2 => whenZero reserved (.muls dst left right size)
  | 3 => whenZero reserved (.mulu dst left right size)
  | 4 => whenZero reserved (.divs dst left right size)
  | 5 => whenZero reserved (.divu dst left right size)
  | 6 => whenZero reserved (.and dst left right size)
  | 7 => whenZero reserved (.or dst left right size)
  | 8 => whenZero reserved (.xor dst left right size)
  | 9 => whenZero reserved (.asl dst left right size)
  | 10 => whenZero reserved (.lsl dst left right size)
  | 11 => whenZero reserved (.asr dst left right size)
  | 12 => whenZero reserved (.lsr dst left right size)
  | _ => .error .aluOp

/-- Format RRI (30_encoding.md R129, R132). -/
def decodeRri (w : Word) : Except DecodeError Instr :=
  let dst := reg6 w 31 26
  let left := reg6 w 25 20
  let value : BitVec 10 := imm 10 w 19 10
  let size := Size.ofField (field w 9 8)
  match field w 7 4 with
  | 0 => .ok (.addi dst left value size)
  | 1 => .ok (.subi dst left value size)
  | 2 => .ok (.mulsi dst left value size)
  | 3 => .ok (.mului dst left value size)
  | 4 => .ok (.divsi dst left value size)
  | 5 => .ok (.divui dst left value size)
  | 6 => .ok (.andi dst left value size)
  | 7 => .ok (.ori dst left value size)
  | 8 => .ok (.xori dst left value size)
  | 9 => .ok (.asli dst left value size)
  | 10 => .ok (.lsli dst left value size)
  | 11 => .ok (.asri dst left value size)
  | 12 => .ok (.lsri dst left value size)
  | _ => .error .aluOp

/-- Format RI (30_encoding.md R130, R132). -/
def decodeRi (w : Word) : Except DecodeError Instr :=
  let dst := reg6 w 31 26
  let value : BitVec 16 := imm 16 w 25 10
  let size := Size.ofField (field w 9 8)
  match field w 7 4 with
  | 0 => .ok (.addq dst value size)
  | 1 => .ok (.subq dst value size)
  | 2 => .ok (.mulsq dst value size)
  | 3 => .ok (.muluq dst value size)
  | 4 => .ok (.divsq dst value size)
  | 5 => .ok (.divuq dst value size)
  | 6 => .ok (.andq dst value size)
  | 7 => .ok (.orq dst value size)
  | 8 => .ok (.xorq dst value size)
  | 9 => .ok (.aslq dst value size)
  | 10 => .ok (.lslq dst value size)
  | 11 => .ok (.asrq dst value size)
  | 12 => .ok (.lsrq dst value size)
  | _ => .error .aluOp

/-- The ALU decode tree (30_encoding.md R502, R126 to R131). -/
def decodeAlu (w : Word) : Except DecodeError Instr :=
  match field w 3 2 with
  | 0 =>
    match field w 6 4 with
    | 0 => decodeRrr w
    | 2 => whenZero (field w 31 7) .xchg
    | 6 => whenZero (field w 31 8) (.nop (bit w 7))
    | _ => .error .aluType
  | 1 => decodeRri w
  | 2 => decodeRi w
  | _ => .ok (.movei (reg6 w 31 26) (imm 22 w 25 4))

/-! ### AGU: CU = 0 in slot 1 (30_encoding.md R503) -/

/-- The AGU decode tree (30_encoding.md R503, R133, R134, R109). -/
def decodeAgu (w : Word) : Except DecodeError Instr :=
  if bit w 2 then
    match field w 7 4 with
    | 0 =>
      if bit w 3 then .ok (.stdmar (reg6 w 31 26) (reg6 w 25 20) (imm 12 w 19 8))
      else .ok (.lddmar (reg6 w 31 26) (reg6 w 25 20) (imm 12 w 19 8))
    | 1 =>
      if bit w 3 then .error .dmairStore
      else .ok (.dmair (reg6 w 31 26) (reg6 w 25 20) (imm 12 w 19 8))
    | 15 => whenZero (field w 31 8 + field w 3 3) .wait
    | _ => .error .aguType
  else
    let ramReg := regBased 58 w 7 7
    let dsReg := regBased 60 w 6 5
    if bit w 3 then .ok (.stdma ramReg dsReg (imm 12 w 31 20) (imm 12 w 19 8) (bit w 4))
    else .ok (.lddma ramReg dsReg (imm 12 w 31 20) (imm 12 w 19 8) (bit w 4))

/-! ### VFPU and VDIV: CU = 3 in slots 0 and 1 (30_encoding.md R504) -/

/-- Formats VV, VF, VA and DD (30_encoding.md R135 to R138). -/
def decodeVfpuArith (w : Word) : Except DecodeError Instr :=
  let lanes := Lanes.ofField (field w 7 6)
  match field w 9 8 with
  | 0 =>
    let dst := reg5 w 31 27
    let left := reg5 w 26 22
    let right := reg5 w 21 17
    match field w 11 10 with
    | 0 => whenZero (field w 16 12) (.faddVv dst left right lanes)
    | 1 => whenZero (field w 16 12) (.fsubVv dst left right lanes)
    | 2 => whenZero (field w 16 12) (.fmulVv dst left right lanes)
    | _ => whenZero (field w 16 12) (.fmuladdVv dst left right lanes)
  | 1 =>
    let dst := reg5 w 31 27
    let left := reg5 w 26 22
    let right := reg7 w 21 15
    match field w 11 10 with
    | 0 => whenZero (field w 14 12) (.faddVf dst left right lanes)
    | 1 => whenZero (field w 14 12) (.fsubVf dst left right lanes)
    | 2 => whenZero (field w 14 12) (.fmulVf dst left right lanes)
    | _ => whenZero (field w 14 12) (.fmuladdVf dst left right lanes)
  | 2 =>
    let vec2 := reg5 w 31 27
    let vec1 := reg5 w 26 22
    let float := reg7 w 21 15
    match field w 11 10 with
    | 0 => whenZero (field w 14 12) (.fmulva vec1 float lanes)
    | 1 => whenZero (field w 14 12) (.fmuladdva vec1 float lanes)
    | 2 => whenZero (field w 14 12) (.fmuladdvao vec2 vec1 float lanes)
    | _ => whenZero (field w 14 12) (.fipr float vec1 vec2 lanes)
  | _ =>
    let dst := reg6 w 31 26
    let left := reg6 w 25 20
    let right := reg6 w 19 14
    match field w 7 6 with
    | 0 => whenZero (field w 13 10) (.faddD dst left right)
    | 1 => whenZero (field w 13 10) (.fsubD dst left right)
    | 2 => whenZero (field w 13 10) (.fmulD dst left right)
    | _ => whenZero (field w 13 10) (.fmuladdD dst left right)

/-- Format FIX (30_encoding.md R140). -/
def decodeFix (w : Word) : Except DecodeError Instr :=
  let reg := reg6 w 31 26
  let vec := reg5 w 25 21
  let lanes := Lanes.ofField (field w 7 6)
  let reserved := field w 20 15 + field w 11 10
  match field w 14 12 with
  | 0 => whenZero reserved (.itof0 vec reg lanes)
  | 1 => whenZero reserved (.itof4 vec reg lanes)
  | 2 => whenZero reserved (.itof8 vec reg lanes)
  | 3 => whenZero reserved (.itof15 vec reg lanes)
  | 4 => whenZero reserved (.ftoi0 reg vec lanes)
  | 5 => whenZero reserved (.ftoi4 reg vec lanes)
  | 6 => whenZero reserved (.ftoi8 reg vec lanes)
  | _ => whenZero reserved (.ftoi15 reg vec lanes)

/-- Formats FDIV and DDIV: the VDIV, slot 0 only (30_encoding.md R143, R144, R150). -/
def decodeVdiv (k : Slot) (w : Word) : Except DecodeError Instr :=
  if k ≠ 0 then .error .vdivSlot
  else
    match bit w 7, bit w 6 with
    | false, false => whenZero (field w 10 10) (.fdiv (reg7 w 31 25) (reg7 w 17 11) (reg7 w 24 18))
    | false, true => whenZero (field w 10 10) (.fsqrt (reg7 w 31 25) (reg7 w 17 11) (reg7 w 24 18))
    | true, false => whenZero (field w 13 10) (.ddiv (reg6 w 31 26) (reg6 w 19 14) (reg6 w 25 20))
    | true, true => whenZero (field w 13 10) (.dsqrt (reg6 w 31 26) (reg6 w 19 14) (reg6 w 25 20))

/-- The VFPU decode tree (30_encoding.md R504, R135 to R148). -/
def decodeVfpu (k : Slot) (w : Word) : Except DecodeError Instr :=
  match field w 3 2 with
  | 0 =>
    match field w 5 4 with
    | 0 => decodeVfpuArith w
    | 1 => .error .vfpuMoves
    | 2 =>
      if bit w 6 then whenZero (field w 18 7) (.cvtD2f (reg7 w 25 19) (reg6 w 31 26))
      else whenZero (field w 18 7) (.cvtF2d (reg6 w 31 26) (reg7 w 25 19))
    | _ =>
      match field w 9 8 with
      | 0 => decodeFix w
      | 1 =>
        let size := Size.ofField (field w 7 6)
        if bit w 10 then whenZero (field w 18 11) (.cvtF2i (reg6 w 31 26) (reg7 w 25 19) size)
        else whenZero (field w 18 11) (.cvtI2f (reg7 w 25 19) (reg6 w 31 26) size)
      | 2 =>
        let size := Size.ofField (field w 7 6)
        if bit w 10 then whenZero (field w 19 11) (.cvtD2i (reg6 w 31 26) (reg6 w 25 20) size)
        else whenZero (field w 19 11) (.cvtI2d (reg6 w 25 20) (reg6 w 31 26) size)
      | _ => decodeVdiv k w
  | 1 => .ok (.movefi (reg7 w 31 25) (imm 21 w 24 4))
  | 2 => .ok (.movedi (reg6 w 31 26) (imm 22 w 25 4))
  | _ => .ok (.movevi (reg5 w 31 27) (imm 23 w 26 4))

/-! ### The pair (slot, word) -/

/-- A store, or an XCHG, that its slot does not take is Illegal (30_encoding.md R150). -/
def checkSlot (k : Slot) (e : DecodeError) (r : Except DecodeError Instr) : Except DecodeError Instr :=
  match r with
  | .ok i => if i.legalIn k then .ok i else .error e
  | .error e' => .error e'

/-- Decoding: the slot and the Compute Unit field choose the unit, its tree the instruction (30_encoding.md R101,
R102; 40_bundle.md R162). -/
def decode (k : Slot) (w : Word) : Except DecodeError Instr :=
  match k, field w 1 0 with
  | 0, 0 => decodeBru w
  | 1, 0 => decodeAgu w
  | 0, 1 => checkSlot k .storeSlot (decodeLsu w)
  | 1, 1 => decodeLsu w
  | _, 2 => checkSlot k .xchgSlot (decodeAlu w)
  | 0, 3 => decodeVfpu k w
  | 1, 3 => decodeVfpu k w
  | _, _ => .error .unitNotInSlot

/-- Decoding the four bytes of an opcode (00_scope.md R7). -/
def decodeBytes (k : Slot) (bs : List Byte) : Except DecodeError Instr := decode k (wordOfBytes bs)

/-! ### The encoder -/

/-- Format CMP (30_encoding.md R110). -/
def encCmp (left right size : Nat) : Nat := left * 2 ^ 26 + right * 2 ^ 20 + size * 2 ^ 8

/-- Format BCC (30_encoding.md R113). -/
def encBcc (comparator : Nat) (label : Label) : Nat := label.toNat * 2 ^ 12 + comparator * 2 ^ 8 + 0x30

/-- Format JMP (30_encoding.md R114). -/
def encJmp (subtype : Nat) (label : Label) : Nat := label.toNat * 2 ^ 12 + subtype * 2 ^ 8 + 0xB0

/-- Format LS: `type` 0 is DSRAM, 2 is the cache (30_encoding.md R119). -/
def encLs (type : Nat) (store : Bool) (data base : Reg) (imm : BitVec 12) (size : Size) (inc : Bool) : Nat :=
  data.val * 2 ^ 26 + base.val * 2 ^ 20 + imm.toNat * 2 ^ 8 + size.toField * 2 ^ 6 + store.toNat * 2 ^ 5 +
    inc.toNat * 2 ^ 4 + type * 2 ^ 2 + 1

/-- Format LSX (30_encoding.md R120). -/
def encLsx (store : Bool) (data : Reg) (source : Bool) (imm : BitVec 16) (size : Size) : Nat :=
  data.val * 2 ^ 26 + source.toNat * 2 ^ 25 + imm.toNat * 2 ^ 9 + size.toField * 2 ^ 7 + store.toNat * 2 ^ 6 + 0x05

/-- Format IO (30_encoding.md R121). -/
def encIo (store : Bool) (data : Reg) (addr : BitVec 8) (size : Size) : Nat :=
  data.val * 2 ^ 26 + addr.toNat * 2 ^ 16 + size.toField * 2 ^ 7 + store.toNat * 2 ^ 6 + 0x15

/-- Format LSV (30_encoding.md R123). -/
def encLsv (store cache : Bool) (data : VReg) (base : Reg) (imm : BitVec 15) (inc : Bool) : Nat :=
  data.val * 2 ^ 27 + (base.val - 56) * 2 ^ 24 + imm.toNat * 2 ^ 9 + inc.toNat * 2 ^ 8 + cache.toNat * 2 ^ 7 +
    store.toNat * 2 ^ 6 + 0x35

/-- Format LSF (30_encoding.md R124). -/
def encLsf (store cache : Bool) (data : FReg) (base : Reg) (imm : BitVec 15) (inc : Bool) : Nat :=
  data.val * 2 ^ 25 + (base.val - 60) * 2 ^ 23 + imm.toNat * 2 ^ 8 + inc.toNat * 2 ^ 7 + store.toNat * 2 ^ 6 +
    cache.toNat * 2 ^ 5 + 0x0D

/-- Format LSD (30_encoding.md R125). -/
def encLsd (store cache : Bool) (data : DReg) (base : Reg) (imm : BitVec 16) (inc : Bool) : Nat :=
  data.val * 2 ^ 26 + (base.val - 60) * 2 ^ 24 + imm.toNat * 2 ^ 8 + inc.toNat * 2 ^ 7 + store.toNat * 2 ^ 6 +
    cache.toNat * 2 ^ 5 + 0x1D

/-- Format RRR (30_encoding.md R128). -/
def encRrr (op : Nat) (dst left right : Reg) (size : Size) : Nat :=
  dst.val * 2 ^ 26 + left.val * 2 ^ 20 + right.val * 2 ^ 14 + size.toField * 2 ^ 12 + op * 2 ^ 8 + 2

/-- Format RRI (30_encoding.md R129). -/
def encRri (op : Nat) (dst left : Reg) (imm : BitVec 10) (size : Size) : Nat :=
  dst.val * 2 ^ 26 + left.val * 2 ^ 20 + imm.toNat * 2 ^ 10 + size.toField * 2 ^ 8 + op * 2 ^ 4 + 6

/-- Format RI (30_encoding.md R130). -/
def encRi (op : Nat) (dst : Reg) (imm : BitVec 16) (size : Size) : Nat :=
  dst.val * 2 ^ 26 + imm.toNat * 2 ^ 10 + size.toField * 2 ^ 8 + op * 2 ^ 4 + 10

/-- Format DMA (30_encoding.md R133). -/
def encDma (store : Bool) (ramReg dsReg : Reg) (ramBase dsBase : BitVec 12) (long : Bool) : Nat :=
  ramBase.toNat * 2 ^ 20 + dsBase.toNat * 2 ^ 8 + (ramReg.val - 58) * 2 ^ 7 + (dsReg.val - 60) * 2 ^ 5 +
    long.toNat * 2 ^ 4 + store.toNat * 2 ^ 3

/-- Format DMAR (30_encoding.md R134). -/
def encDmar (type : Nat) (store : Bool) (first ramReg : Reg) (blocks : BitVec 12) : Nat :=
  first.val * 2 ^ 26 + ramReg.val * 2 ^ 20 + blocks.toNat * 2 ^ 8 + type * 2 ^ 4 + store.toNat * 2 ^ 3 + 4

/-- Format VV (30_encoding.md R135). -/
def encVv (op : Nat) (dst left right : VReg) (lanes : Lanes) : Nat :=
  dst.val * 2 ^ 27 + left.val * 2 ^ 22 + right.val * 2 ^ 17 + op * 2 ^ 10 + lanes.toField * 2 ^ 6 + 3

/-- Formats VF and VA: `category` 1 is VF, 2 is VA; for VA the first field is *Vector 2* (30_encoding.md R136, R137).
-/
def encVf (category op : Nat) (top : Nat) (vec : VReg) (float : FReg) (lanes : Lanes) : Nat :=
  top * 2 ^ 27 + vec.val * 2 ^ 22 + float.val * 2 ^ 15 + op * 2 ^ 10 + category * 2 ^ 8 + lanes.toField * 2 ^ 6 + 3

/-- Format DD (30_encoding.md R138). -/
def encDd (op : Nat) (dst left right : DReg) : Nat :=
  dst.val * 2 ^ 26 + left.val * 2 ^ 20 + right.val * 2 ^ 14 + op * 2 ^ 6 + 0x303

/-- Format FCVT (30_encoding.md R139). -/
def encFcvt (direction : Nat) (double : DReg) (float : FReg) : Nat :=
  double.val * 2 ^ 26 + float.val * 2 ^ 19 + direction * 2 ^ 6 + 0x23

/-- Format FIX (30_encoding.md R140). -/
def encFix (instruction : Nat) (reg : Reg) (vec : VReg) (lanes : Lanes) : Nat :=
  reg.val * 2 ^ 26 + vec.val * 2 ^ 21 + instruction * 2 ^ 12 + lanes.toField * 2 ^ 6 + 0x33

/-- Format FI (30_encoding.md R141). -/
def encFi (direction : Nat) (reg : Reg) (float : FReg) (size : Size) : Nat :=
  reg.val * 2 ^ 26 + float.val * 2 ^ 19 + direction * 2 ^ 10 + size.toField * 2 ^ 6 + 0x133

/-- Format DI (30_encoding.md R142). -/
def encDi (direction : Nat) (reg : Reg) (double : DReg) (size : Size) : Nat :=
  reg.val * 2 ^ 26 + double.val * 2 ^ 20 + direction * 2 ^ 10 + size.toField * 2 ^ 6 + 0x233

/-- Format FDIV (30_encoding.md R143). -/
def encFdiv (instruction : Nat) (dst source1 source2 : FReg) : Nat :=
  dst.val * 2 ^ 25 + source2.val * 2 ^ 18 + source1.val * 2 ^ 11 + instruction * 2 ^ 6 + 0x333

/-- Format DDIV (30_encoding.md R144). -/
def encDdiv (instruction : Nat) (dst source1 source2 : DReg) : Nat :=
  dst.val * 2 ^ 26 + source2.val * 2 ^ 20 + source1.val * 2 ^ 14 + instruction * 2 ^ 6 + 0x3B3

/-- The word of an instruction as a number, by its format (30_encoding.md R110 to R147). -/
def encodeNat : Instr → Nat
  | .cmp left right size => encCmp left.val right.val size.toField
  | .cmpi left imm size => left.val * 2 ^ 26 + imm.toNat * 2 ^ 6 + size.toField * 2 ^ 4 + 4
  | .fcmp left right => left.val * 2 ^ 25 + right.val * 2 ^ 18 + 0x10
  | .fcmpi left imm => left.val * 2 ^ 25 + imm.toNat * 2 ^ 4 + 8
  | .dcmp left right => left.val * 2 ^ 26 + right.val * 2 ^ 20 + 0x20
  | .dcmpi left imm => left.val * 2 ^ 26 + imm.toNat * 2 ^ 4 + 12
  | .bne label => encBcc 0 label
  | .beq label => encBcc 1 label
  | .bl label => encBcc 2 label
  | .ble label => encBcc 3 label
  | .bg label => encBcc 4 label
  | .bge label => encBcc 5 label
  | .bls label => encBcc 6 label
  | .bles label => encBcc 7 label
  | .bgs label => encBcc 8 label
  | .bges label => encBcc 9 label
  | .call label => encJmp 0 label
  | .jmp label => encJmp 1 label
  | .callr label => encJmp 2 label
  | .jmpr label => encJmp 3 label
  | .ret => 0xF0
  | .ldm data base imm size inc => encLs 0 false data base imm size inc
  | .stm data base imm size inc => encLs 0 true data base imm size inc
  | .ldmx data source imm size => encLsx false data source imm size
  | .stmx data source imm size => encLsx true data source imm size
  | .inp data addr size => encIo false data addr size
  | .out data addr size => encIo true data addr size
  | .outi addr imm size => addr.toNat * 2 ^ 24 + imm.toNat * 2 ^ 8 + size.toField * 2 ^ 7 + 0x25
  | .ldc data base imm size inc => encLs 2 false data base imm size inc
  | .stc data base imm size inc => encLs 2 true data base imm size inc
  | .ldmv data base imm inc => encLsv false false data base imm inc
  | .stmv data base imm inc => encLsv true false data base imm inc
  | .ldcv data base imm inc => encLsv false true data base imm inc
  | .stcv data base imm inc => encLsv true true data base imm inc
  | .ldmf data base imm inc => encLsf false false data base imm inc
  | .stmf data base imm inc => encLsf true false data base imm inc
  | .ldcf data base imm inc => encLsf false true data base imm inc
  | .stcf data base imm inc => encLsf true true data base imm inc
  | .ldmd data base imm inc => encLsd false false data base imm inc
  | .stmd data base imm inc => encLsd true false data base imm inc
  | .ldcd data base imm inc => encLsd false true data base imm inc
  | .stcd data base imm inc => encLsd true true data base imm inc
  | .xchg => 0x22
  | .nop fin => fin.toNat * 2 ^ 7 + 0x62
  | .add dst left right size => encRrr 0 dst left right size
  | .sub dst left right size => encRrr 1 dst left right size
  | .muls dst left right size => encRrr 2 dst left right size
  | .mulu dst left right size => encRrr 3 dst left right size
  | .divs dst left right size => encRrr 4 dst left right size
  | .divu dst left right size => encRrr 5 dst left right size
  | .and dst left right size => encRrr 6 dst left right size
  | .or dst left right size => encRrr 7 dst left right size
  | .xor dst left right size => encRrr 8 dst left right size
  | .asl dst left right size => encRrr 9 dst left right size
  | .lsl dst left right size => encRrr 10 dst left right size
  | .asr dst left right size => encRrr 11 dst left right size
  | .lsr dst left right size => encRrr 12 dst left right size
  | .addi dst left imm size => encRri 0 dst left imm size
  | .subi dst left imm size => encRri 1 dst left imm size
  | .mulsi dst left imm size => encRri 2 dst left imm size
  | .mului dst left imm size => encRri 3 dst left imm size
  | .divsi dst left imm size => encRri 4 dst left imm size
  | .divui dst left imm size => encRri 5 dst left imm size
  | .andi dst left imm size => encRri 6 dst left imm size
  | .ori dst left imm size => encRri 7 dst left imm size
  | .xori dst left imm size => encRri 8 dst left imm size
  | .asli dst left imm size => encRri 9 dst left imm size
  | .lsli dst left imm size => encRri 10 dst left imm size
  | .asri dst left imm size => encRri 11 dst left imm size
  | .lsri dst left imm size => encRri 12 dst left imm size
  | .addq dst imm size => encRi 0 dst imm size
  | .subq dst imm size => encRi 1 dst imm size
  | .mulsq dst imm size => encRi 2 dst imm size
  | .muluq dst imm size => encRi 3 dst imm size
  | .divsq dst imm size => encRi 4 dst imm size
  | .divuq dst imm size => encRi 5 dst imm size
  | .andq dst imm size => encRi 6 dst imm size
  | .orq dst imm size => encRi 7 dst imm size
  | .xorq dst imm size => encRi 8 dst imm size
  | .aslq dst imm size => encRi 9 dst imm size
  | .lslq dst imm size => encRi 10 dst imm size
  | .asrq dst imm size => encRi 11 dst imm size
  | .lsrq dst imm size => encRi 12 dst imm size
  | .movei dst imm => dst.val * 2 ^ 26 + imm.toNat * 2 ^ 4 + 14
  | .lddma ramReg dsReg ramBase dsBase long => encDma false ramReg dsReg ramBase dsBase long
  | .stdma ramReg dsReg ramBase dsBase long => encDma true ramReg dsReg ramBase dsBase long
  | .lddmar dsReg ramReg blocks => encDmar 0 false dsReg ramReg blocks
  | .stdmar dsReg ramReg blocks => encDmar 0 true dsReg ramReg blocks
  | .dmair isReg ramReg blocks => encDmar 1 false isReg ramReg blocks
  | .wait => 0xF4
  | .faddVv dst left right lanes => encVv 0 dst left right lanes
  | .fsubVv dst left right lanes => encVv 1 dst left right lanes
  | .fmulVv dst left right lanes => encVv 2 dst left right lanes
  | .fmuladdVv dst left right lanes => encVv 3 dst left right lanes
  | .faddVf dst left right lanes => encVf 1 0 dst.val left right lanes
  | .fsubVf dst left right lanes => encVf 1 1 dst.val left right lanes
  | .fmulVf dst left right lanes => encVf 1 2 dst.val left right lanes
  | .fmuladdVf dst left right lanes => encVf 1 3 dst.val left right lanes
  | .fmulva vec float lanes => encVf 2 0 0 vec float lanes
  | .fmuladdva vec float lanes => encVf 2 1 0 vec float lanes
  | .fmuladdvao dst vec float lanes => encVf 2 2 dst.val vec float lanes
  | .fipr dst vec1 vec2 lanes => encVf 2 3 vec2.val vec1 dst lanes
  | .faddD dst left right => encDd 0 dst left right
  | .fsubD dst left right => encDd 1 dst left right
  | .fmulD dst left right => encDd 2 dst left right
  | .fmuladdD dst left right => encDd 3 dst left right
  | .cvtF2d dst src => encFcvt 0 dst src
  | .cvtD2f dst src => encFcvt 1 src dst
  | .itof0 dst src lanes => encFix 0 src dst lanes
  | .itof4 dst src lanes => encFix 1 src dst lanes
  | .itof8 dst src lanes => encFix 2 src dst lanes
  | .itof15 dst src lanes => encFix 3 src dst lanes
  | .ftoi0 dst src lanes => encFix 4 dst src lanes
  | .ftoi4 dst src lanes => encFix 5 dst src lanes
  | .ftoi8 dst src lanes => encFix 6 dst src lanes
  | .ftoi15 dst src lanes => encFix 7 dst src lanes
  | .cvtI2f dst src size => encFi 0 src dst size
  | .cvtF2i dst src size => encFi 1 dst src size
  | .cvtI2d dst src size => encDi 0 src dst size
  | .cvtD2i dst src size => encDi 1 dst src size
  | .fdiv dst left right => encFdiv 0 dst left right
  | .fsqrt dst source1 source2 => encFdiv 1 dst source1 source2
  | .ddiv dst left right => encDdiv 0 dst left right
  | .dsqrt dst source1 source2 => encDdiv 1 dst source1 source2
  | .movefi dst imm => dst.val * 2 ^ 25 + imm.toNat * 2 ^ 4 + 7
  | .movedi dst imm => dst.val * 2 ^ 26 + imm.toNat * 2 ^ 4 + 11
  | .movevi dst imm => dst.val * 2 ^ 27 + imm.toNat * 2 ^ 4 + 15

/-- The word of a well-formed instruction (30_encoding.md R110 to R147). The *Vector 2* field of FMULVA and
FMULADDVA, which decoding ignores, is written 0 (30_encoding.md R137). -/
def encode (i : Instr) : Word := BitVec.ofNat 32 (encodeNat i)

/-! ### One word of the opcode table -/

/-- Whether an AGU reading of a word is that of a more constrained format than its BRU reading: the list transfers
and WAIT fix 8 or 32 bits, CMPI and DCMPI 4 (30_encoding.md R116, R118, R134, R109). -/
def Instr.listTransferOrWait : Instr → Bool
  | .lddmar _ _ _ | .stdmar _ _ _ | .dmair _ _ _ | .wait => true
  | _ => false

/-- The slot at which a word of the opcode table is read, the table giving none. A word has one reading but where
CU = 0, which is BRU in slot 0 and AGU in slot 1 (30_encoding.md R102 a): there the reading whose format fixes more
bits is taken, the BRU's when they fix the same number. DESIGN CHOICE (safe, log 15). -/
def tableSlot (w : Word) : Option Slot :=
  match decodeBytes 0 (bytesOfWord w), decodeBytes 1 (bytesOfWord w) with
  | .ok _, .ok j =>
    if j.listTransferOrWait then some 1 else some 0
  | .ok _, .error _ => some 0
  | .error _, .ok _ => some 1
  | .error _, .error _ => none

/-- The instruction the decoder reads from an instruction word of spec/opcode_table.json, laid out in memory as the
hardware stores it, at the slot `tableSlot` says. -/
def decodeTableWord (nbits w : Nat) : Option Instr :=
  let word : Word := BitVec.ofNat 32 (w % 2 ^ nbits)
  match tableSlot word with
  | none => none
  | some k =>
    match decodeBytes k (bytesOfWord word) with
    | .ok i => some i
    | .error _ => none

end Sys2Proof
end

