-- ==== Sys2Proof/Config.lean ====
section
/-! DEFINITION. What an implementation fixes (00_scope.md R5): the settings of the parameters, and the one free value
of the model. -/

namespace Sys2Proof

/-- NARROW_UPPER: bits above the operation size in a destination register (43_alu.md R285). -/
inductive NarrowUpper where
  /-- zero-extended: the default -/
  | zero
  /-- sign-extended for the operations marked "Sign-extended", zero-extended for the rest -/
  | sextMarked
  /-- the destination keeps its old upper bits -/
  | preserve
  /-- the upper bits are unspecified -/
  | draw
deriving DecidableEq, Repr

/-- LOAD_EXT: extension of a narrow load (20_memory.md R70). -/
inductive LoadExt where
  | zero
  | sign
  | preserve
deriving DecidableEq, Repr

/-- MISALIGNED: what a misaligned data access does (20_memory.md R63). -/
inductive MisalignedMode where
  | fault
  | allow
deriving DecidableEq, Repr

/-- REL_BASE: what "current program counter" is for a relative target (41_bru.md R183). -/
inductive RelBase where
  /-- the address of the bundle that holds the branch: the default -/
  | current
  /-- the address of the following bundle -/
  | next
deriving DecidableEq, Repr

/-- LSX_SOURCE_MAP: which register the one-bit *Source* field of LDMX and STMX names (30_encoding.md R120). -/
inductive LsxSourceMap where
  /-- 0 = r62, 1 = r63: the default -/
  | prose
  /-- 0 = r63, 1 = r62 -/
  | examples
deriving DecidableEq, Repr

/-- SQRT_OPERAND: which source field FSQRT and DSQRT take their operand from (45_vfpu.md R419). -/
inductive SqrtOperand where
  | source1
  | source2
deriving DecidableEq, Repr

/-- A rounding direction of the numerics record FP (45_vfpu.md R371). -/
inductive Rounding where
  | nearestEven
  | towardZero
  | towardPositive
  | towardNegative
deriving DecidableEq, Repr

/-- CACHE_MODEL: what the space the source calls "cache" is (10_state.md R40). The spec describes one model of it
(log 8). -/
inductive CacheModel where
  /-- a byte array of its own, with no relation to another space (92_eei_decisions.md D33): the default -/
  | privateMemory
deriving DecidableEq, Repr

/-- FPR_OVERLAY: whether float, double and vector registers are views of one 512-byte file (10_state.md R37,
92_eei_decisions.md D3). -/
inductive FprOverlay where
  /-- not stated, the spec's OPEN: the registers of the other views that could overlap a written one are free values
  afterwards (log 3) -/
  | unstated
  /-- three files that share no bit -/
  | separate
  /-- views of one file under the natural packing; `lowFirst` is whether the first of the two words of a double is its
  low half, which the spec leaves open too (log 3) -/
  | shared (lowFirst : Bool)
deriving DecidableEq, Repr

/-- FPR_OVERLAY as it matters for what a read can reach: under the OPEN setting, the words that the natural packing
would share (70_reset_and_hazards.md R483; log 23). -/
def FprOverlay.packed : FprOverlay → FprOverlay
  | .unstated => .shared true
  | .separate => .separate
  | .shared lowFirst => .shared lowFirst

/-- The subnormal field of FP (92_eei_decisions.md D37). PRESUMED (log 20): what the setting that is not the default
does. -/
inductive Subnormals where
  /-- subnormal numbers are kept: the default -/
  | keep
  /-- a subnormal operand is taken as, and a subnormal result becomes, the zero of its sign -/
  | flush
deriving DecidableEq, Repr

/-- The NaN field of FP (45_vfpu.md R371, 92_eei_decisions.md D37). PRESUMED (log 20): what the setting that is not the
default does. -/
inductive NanResult where
  /-- any quiet NaN: sign and payload are unspecified, the default -/
  | drawn
  /-- one quiet NaN: sign 0, payload 0 -/
  | canonical
deriving DecidableEq, Repr

/-- The dot-product order of FP (45_vfpu.md R387, 92_eei_decisions.md D37). PRESUMED (log 20): the settings that are
not the default. -/
inductive DotOrder where
  /-- summed from x upward: the default -/
  | ascending
  /-- summed from the last selected lane down to x -/
  | descending
  /-- (x + y) + (z + w); three lanes as (x + y) + z -/
  | pairwise
deriving DecidableEq, Repr

/-- The parameters a model takes as an argument (00_scope.md R5), fixed for a run (10_state.md R46). They are
data of the state that no step writes, so that a statement about every state holds for every setting (log 7). -/
structure Params where
  /-- ISRAM_SIZE in bytes -/
  isramSize : Nat
  /-- DSRAM_SIZE in bytes -/
  dsramSize : Nat
  /-- CACHE_SIZE in bytes -/
  cacheSize : Nat
  /-- RAM_SIZE in bytes -/
  ramSize : Nat
  /-- FPR_OVERLAY (10_state.md R37) -/
  fprOverlay : FprOverlay
  /-- CALL_DEPTH, the capacity of the return-address storage (10_state.md R42), at least 1 (`Params.valid`) -/
  callDepth : Nat
  /-- RESET_PC, pc after reset (70_reset_and_hazards.md R470, R471) -/
  resetPc : Addr
  /-- IMM_SIGNED: the instructions whose integer immediates are sign-extended (30_encoding.md R104) -/
  immSigned : List Mnemonic
  /-- BRANCH_DELAY: the sequential bundles run between a taken transfer and its target (70_reset_and_hazards.md R481)
  -/
  branchDelay : Nat
  /-- LATENCY: for how many bundles the destinations of an instruction must not be read; 0 for an instruction not
  listed (70_reset_and_hazards.md R483) -/
  latency : List (Mnemonic × Nat)
  /-- CACHE_MODEL (10_state.md R40) -/
  cacheModel : CacheModel
  narrowUpper : NarrowUpper
  loadExt : LoadExt
  misaligned : MisalignedMode
  /-- POSTINC: none is the number of bytes transferred (42_lsu.md R257); some k is a fixed amount k -/
  postInc : Option Nat
  relBase : RelBase
  lsxSourceMap : LsxSourceMap
  sqrtOperand : SqrtOperand
  /-- the rounding of FP arithmetic (45_vfpu.md R371) -/
  rounding : Rounding
  /-- FP.fused: whether FMULADD rounds once (45_vfpu.md R373) -/
  fused : Bool
  /-- FP.cvt_round: the rounding of a conversion to integer or fixed point (45_vfpu.md R404, R412) -/
  cvtRound : Rounding
  /-- FP's subnormal numbers (92_eei_decisions.md D37) -/
  subnormals : Subnormals
  /-- FP's NaN results (45_vfpu.md R371) -/
  nanResult : NanResult
  /-- FP's dot-product order (45_vfpu.md R387) -/
  dotOrder : DotOrder
deriving DecidableEq, Repr

/-- LATENCY of an instruction (70_reset_and_hazards.md R483). -/
def Params.latencyOf (p : Params) (m : Mnemonic) : Nat := (p.latency.lookup m).getD 0

/-- What the spec asks of the parameters: CALL_DEPTH is at least 1 (00_scope.md R5), RESET_PC is a multiple of 8 and
inside ISRAM (70_reset_and_hazards.md R471). -/
def Params.valid (p : Params) : Bool :=
  1 ≤ p.callDepth && p.resetPc.toNat % 8 == 0 && p.resetPc.toNat < p.isramSize

/-- The spec's default of every parameter that has one. DESIGN CHOICE (unsafe, log 7): the four sizes, which the
spec leaves OPEN, are those of the conventions of 95_test_vectors.md. -/
def Params.default : Params where
  isramSize := 0x1000
  dsramSize := 0x1000
  cacheSize := 0x1000
  ramSize := 0x10000
  fprOverlay := .unstated
  callDepth := 1
  resetPc := 0
  immSigned := []
  branchDelay := 0
  latency := []
  cacheModel := .privateMemory
  narrowUpper := .zero
  loadExt := .zero
  misaligned := .fault
  postInc := none
  relBase := .current
  lsxSourceMap := .prose
  sqrtOperand := .source1
  rounding := .nearestEven
  fused := false
  cvtRound := .towardZero
  subnormals := .keep
  nanResult := .drawn
  dotOrder := .ascending

namespace Config

/-- IOSRAM has the fixed size 256 (00_scope.md R4; 60_exceptions.md R444). -/
def iosramSize : Nat := 256

/-- The length of the unit in which transfers count addresses and sizes (44_agu.md R359). -/
def dmaGranule : Nat := 32

/-- The free value: a draw of the given width (00_scope.md R9, 60_exceptions.md R449). It has no body, so nothing
can be proved of it; it is applied to the counter `State.draws`, which a drawing instruction advances. A run on
hardware is one interpretation of it. DESIGN CHOICE (safe, log 4). -/
opaque draw : (width : Nat) → (counter : Nat) → BitVec width

end Config

end Sys2Proof
end

