-- ==== Sys2Proof/Machine/State.lean ====
section
/-! DEFINITION. The state of the Altair K1 as plain data (10_state.md), the reasons for which a step stops
(60_exceptions.md R461, R448), and the state after reset (10_state.md R47, 70_reset_and_hazards.md R470). -/

namespace Sys2Proof.Machine

open Sys2Proof

/-- The five memory spaces (10_state.md R38). -/
inductive Space where
  | isram
  | dsram
  | cache
  | iosram
  | ram
deriving DecidableEq, Repr

/-- The faults (60_exceptions.md R461). In all of them nothing of the bundle is committed (R441). -/
inductive Fault where
  /-- A byte of the bundle lies outside ISRAM. Raised by the fetch (R443). Safe. -/
  | fetchFault (pc : Addr)
  /-- A word of the bundle is Illegal at its slot. Raised at decode, before any opcode executes (R442). Safe. -/
  | illegalOpcode (pc : Addr) (slot : Nat) (word : Word)
  /-- An access or a transfer would touch a byte outside its space. Raised by every LSU instruction and by the
  instructions that start a transfer (R444). The address is below 0 only under IMM_SIGNED. Safe. -/
  | addressFault (space : Space) (addr : Int) (len : Nat)
  /-- An address is no multiple of the length of the access, under MISALIGNED = fault. Raised by the LSU
  instructions (R445). Safe: a proof made with it holds on hardware that allows the access (D12). -/
  | misalignedAccess (space : Space) (addr len : Nat)
  /-- A memory byte that holds no value is read. Raised by loads, the fetch and the transfer engine (R447). Safe. -/
  | uninitialisedRead (space : Space) (addr : Nat)
  /-- The run is over: status Ended and no transfer pending, so that no agent has a step (40_bundle.md R174).
  Raised by `step` alone, no instruction. Safe (log 14). -/
  | ended
deriving DecidableEq, Repr

/-- The refusals (60_exceptions.md R448): situations whose outcome the spec leaves open. All are safe. -/
inductive Refusal where
  /-- An instruction that the model gives no meaning. Raised by no instruction of this model. Safe. -/
  | notModelled (mnemonic : String)
  /-- Two opcodes of a bundle touch one location and one of them writes it. Raised by a bundle (40_bundle.md R166).
  Safe. -/
  | bundleConflict
  /-- Post-increment with the data register as address register. Raised by LDM and LDC (42_lsu.md R258). Safe. -/
  | operandConflict
  /-- A core access or a new transfer conflicts with a transfer. Raised by LSU instructions and by the instructions
  that start a transfer (20_memory.md R76, 44_agu.md R351). Safe. -/
  | dmaRace
  /-- The bundle lies where a DMAIR transfer writes. Raised by a fetched bundle, and by the fetch where a byte holds no
  value (20_memory.md R79, 60_exceptions.md R446; log 13). Safe. -/
  | fetchUnderDma
  /-- A NOP with End = 1 beside a taken control transfer. Raised by a bundle (40_bundle.md R170). Safe. -/
  | endWithTransfer
  /-- No room in the return-address storage. Raised by CALL and CALLR (41_bru.md R206). Safe. -/
  | callDepthExceeded
  /-- No return address is stored. Raised by RET (41_bru.md R210). Safe. -/
  | returnWithoutCall
  /-- A destination is read within the LATENCY of the instruction that wrote it. Raised by a bundle
  (70_reset_and_hazards.md R483). Safe. -/
  | latencyHazard
deriving DecidableEq, Repr

/-- The run status (10_state.md R44), with the record of a fault (60_exceptions.md R441): its kind and detail, the pc
of the bundle, and the slot where an opcode raised it. -/
inductive Status where
  | running
  | ended
  | faulted (fault : Fault) (pc : Addr) (slot : Option Nat)
  | refused (reason : Refusal)
deriving DecidableEq, Repr

/-- The four lanes of a vector register or of the accumulator (10_state.md R35, R36). -/
structure Vec4 where
  x : BitVec 32
  y : BitVec 32
  z : BitVec 32
  w : BitVec 32
deriving DecidableEq, Repr

/-- A location that two opcodes can share: of one bundle (40_bundle.md R166), or of two bundles under LATENCY
(70_reset_and_hazards.md R483). The XCHG bit, the return addresses and pc are not listed: only opcodes of slot 0 touch
them (40_bundle.md R163), and R483 does not name them. -/
inductive Loc where
  | x (r : Reg)
  | f (r : FReg)
  | d (r : DReg)
  | v (r : VReg) (lane : Fin 4)
  | acc (lane : Fin 4)
  | flagZ
  | flagS
  | flagU
  | mem (sp : Space) (addr n : Nat)
deriving DecidableEq, Repr

/-- A taken control transfer whose target is not reached yet, under BRANCH_DELAY: the bundles that still have to end,
the current one included, and the target (70_reset_and_hazards.md R481). -/
structure Redirect where
  bundles : Nat
  target : Addr
deriving DecidableEq, Repr

/-- A destination that must not be read, under LATENCY, and for how many bundles (70_reset_and_hazards.md R483). -/
structure Unsettled where
  loc : Loc
  bundles : Nat
deriving DecidableEq, Repr

/-- The bytes of a space that hold a value, by strictly rising address. A byte not listed holds no value
(10_state.md R47; log 2). -/
abbrev Memory := List Host.Cell

/-- A transfer: the record of 40_bundle.md R171, and the offsets the engine has copied, in rising order. -/
structure Transfer where
  src : Space
  srcAddr : Nat
  dst : Space
  dstAddr : Nat
  len : Nat
  copied : List Nat
deriving DecidableEq, Repr

/-- A recorded access to IOSRAM: address, number of bytes, value (42_lsu.md R236, R237). -/
inductive IoEvent where
  | input (addr bytes value : Nat)
  | output (addr bytes value : Nat)
deriving DecidableEq, Repr

/-- Which agent moves while a transfer is pending: the core, or the engine, which copies the byte that `pick` selects
(40_bundle.md R171; log 9). -/
inductive EngineTurn where
  | core
  | copy (pick : Nat)
deriving DecidableEq, Repr

/-- The state of the machine. The last four fields are the model's own (INVENTORY.md). -/
structure State where
  /-- the general registers r0 to r63 (10_state.md R20, R21) -/
  x : Vector XWord 64
  /-- the program counter (10_state.md R25) -/
  pc : Addr
  /-- the flag Z: equal (10_state.md R27, R28) -/
  flagZ : Bool
  /-- the flag S: less in the signed order -/
  flagS : Bool
  /-- the flag U: less in the unsigned order -/
  flagU : Bool
  /-- the XCHG bit: 4 opcodes to a bundle (10_state.md R31) -/
  xchg : Bool
  /-- the float registers (10_state.md R33) -/
  f : Vector (BitVec 32) 128
  /-- the double registers (10_state.md R34) -/
  d : Vector (BitVec 64) 64
  /-- the vector registers (10_state.md R35) -/
  v : Vector Vec4 32
  /-- the vector accumulator (10_state.md R36) -/
  acc : Vec4
  isram : Memory
  dsram : Memory
  cache : Memory
  ram : Memory
  /-- the return-address storage RS, the last call first (10_state.md R42) -/
  rs : List Addr
  /-- the transfers in flight DMAQ, the oldest first (10_state.md R43) -/
  dmaq : List Transfer
  /-- the run status (10_state.md R44) -/
  status : Status
  /-- the taken transfers whose targets are not reached yet, under BRANCH_DELAY (70_reset_and_hazards.md R481) -/
  redirects : List Redirect
  /-- the destinations that must not be read yet, under LATENCY (70_reset_and_hazards.md R483) -/
  unsettled : List Unsettled
  /-- transfers whose bytes are all copied and that no WAIT has ordered yet (20_memory.md R76; log 10) -/
  landed : List Transfer
  /-- the recorded IOSRAM accesses, the oldest first (20_memory.md R69) -/
  ioLog : List IoEvent
  /-- the environment's answers to the coming IN reads (20_memory.md R69; log 6) -/
  ioInputs : List (BitVec 64)
  /-- the coming turns of the two agents (40_bundle.md R160, R171; log 9) -/
  script : List EngineTurn
  /-- the number of free values taken so far (60_exceptions.md R449; log 4) -/
  draws : Nat
  /-- the parameters of the run (00_scope.md R5, 10_state.md R46; log 7) -/
  params : Params
deriving DecidableEq, Repr

/-- The outcome of a step or of a part of one. -/
abbrev Result (α : Type) := Host.Outcome α Fault Refusal

/-- The vector with every lane +0. -/
def Vec4.zero : Vec4 := ⟨0, 0, 0, 0⟩

/-- The state after reset of a machine with the given parameters (10_state.md R47, 70_reset_and_hazards.md R470, R471).
DESIGN CHOICE (unsafe, log 1): registers and flags, which the spec gives no value, are zero. -/
def State.resetWith (p : Params) : State where
  x := Vector.replicate 64 0
  pc := p.resetPc
  flagZ := false
  flagS := false
  flagU := false
  xchg := false
  f := Vector.replicate 128 0
  d := Vector.replicate 64 0
  v := Vector.replicate 32 Vec4.zero
  acc := Vec4.zero
  isram := []
  dsram := []
  cache := []
  ram := []
  rs := []
  dmaq := []
  status := .running
  redirects := []
  unsettled := []
  landed := []
  ioLog := []
  ioInputs := []
  script := []
  draws := 0
  params := p

/-- The state after reset, with the parameters at their defaults (log 7). -/
def State.reset : State := State.resetWith Params.default

end Sys2Proof.Machine
end

