-- ==== Sys2Proof/Machine/Memory.lean ====
section
/-! DEFINITION. The bytes of a memory space: reading, writing, the canonical form (10_state.md R38,
20_memory.md R60, R61, R66). -/

namespace Sys2Proof.Machine

open Sys2Proof

/-- The byte at an address, or none where no value is held (10_state.md R47). -/
def Memory.get? : Memory → Nat → Option Byte
  | [], _ => none
  | (k, b) :: rest, a => if k = a then some b else Memory.get? rest a

/-- The memory after one byte is written. -/
def Memory.set : Memory → Nat → Byte → Memory
  | [], a, b => [(a, b)]
  | (k, c) :: rest, a, b =>
    if a < k then (a, b) :: (k, c) :: rest
    else if a = k then (a, b) :: rest
    else (k, c) :: Memory.set rest a b

/-- Every listed address is above `lo`, and the addresses rise strictly. -/
def Memory.wfAbove : Nat → Memory → Bool
  | _, [] => true
  | lo, (k, _) :: rest => lo < k && Memory.wfAbove k rest

/-- The canonical form: addresses rise strictly. An unlisted byte holds no value and a listed one holds one, so that
equal memories are equal lists. -/
def Memory.wf : Memory → Bool
  | [] => true
  | (k, _) :: rest => Memory.wfAbove k rest

/-- Every listed address lies below the size of the space. -/
def Memory.fits (size : Nat) (m : Memory) : Bool := m.all fun c => c.1 < size

/-- The `n` bytes from an address on, or the first address that holds no value (20_memory.md R66). -/
def Memory.readBytes (m : Memory) : (addr n : Nat) → Except Nat (List Byte)
  | _, 0 => .ok []
  | a, n + 1 =>
    match m.get? a with
    | none => .error a
    | some b =>
      match Memory.readBytes m (a + 1) n with
      | .ok bs => .ok (b :: bs)
      | .error e => .error e

/-- The memory after bytes are written from an address on (20_memory.md R66). -/
def Memory.writeBytes : (m : Memory) → (addr : Nat) → List Byte → Memory
  | m, _, [] => m
  | m, a, b :: bs => Memory.writeBytes (m.set a b) (a + 1) bs

/-- Whether `n` bytes from `a` and `m` bytes from `b` share a byte; no bytes share none (44_agu.md R351 (1)). -/
def rangesOverlap (a n b m : Nat) : Bool := 0 < n && 0 < m && a < b + m && b < a + n

end Sys2Proof.Machine
end

