-- ==== Sys2Proof/Machine/Ops.lean ====
section
/-! DEFINITION. The named operations over registers, memory and transfers, and taking a fault. -/

namespace Sys2Proof.Machine

open Sys2Proof

/-- Goes on with the value of a part of a step, or stops as it stopped. -/
def andThen {α β : Type} (r : Result α) (k : α → Result β) : Result β :=
  match r with
  | .next a => k a
  | .fault e => .fault e
  | .refused e => .refused e

/-! ### Free values (60_exceptions.md R449; log 4) -/

/-- The state after free values are taken: later free values differ from earlier ones. -/
def State.tick (s : State) (n : Nat) : State := { s with draws := s.draws + n }

/-- The pattern of a NaN result of binary32: a quiet NaN whose sign and payload are free, unless FP answers one quiet
NaN (45_vfpu.md R371; log 5, log 20). -/
def nan32 (mode : NanResult) (counter : Nat) : BitVec 32 :=
  match mode with
  | .drawn => Config.draw 32 counter ||| 0x7FC00000#32
  | .canonical => 0x7FC00000#32

/-- The pattern of a NaN result of binary64, as `nan32` (45_vfpu.md R371; log 5, log 20). -/
def nan64 (mode : NanResult) (counter : Nat) : BitVec 64 :=
  match mode with
  | .drawn => Config.draw 64 counter ||| 0x7FF8000000000000#64
  | .canonical => 0x7FF8000000000000#64

/-- A vector of free lanes. -/
def drawVec4 (counter : Nat) : Vec4 :=
  ⟨Config.draw 32 counter, Config.draw 32 (counter + 1), Config.draw 32 (counter + 2),
    Config.draw 32 (counter + 3)⟩

/-! ### Registers -/

/-- Reads a general register; r0 is an ordinary register (10_state.md R22). -/
def State.getX (s : State) (r : Reg) : XWord := s.x[r]

/-- Writes a general register (10_state.md R22). -/
def State.setX (s : State) (r : Reg) (value : XWord) : State := { s with x := s.x.set r value }

/-- Reads a float register. -/
def State.getF (s : State) (r : FReg) : BitVec 32 := s.f[r]

/-- Reads a double register. -/
def State.getD (s : State) (r : DReg) : BitVec 64 := s.d[r]

/-- Reads a vector register. -/
def State.getV (s : State) (r : VReg) : Vec4 := s.v[r]

/-- The float register that the natural packing puts at word `k` of vector register `r` (10_state.md R37). -/
def VReg.float (r : VReg) (k : Fin 4) : FReg := ⟨4 * r.val + k.val, by omega⟩

/-- The double register at half `h` of vector register `r` under the natural packing (10_state.md R37). -/
def VReg.double (r : VReg) (h : Fin 2) : DReg := ⟨2 * r.val + h.val, by omega⟩

/-- The float register at half `h` of double register `r` under the natural packing (10_state.md R37). -/
def DReg.float (r : DReg) (h : Fin 2) : FReg := ⟨2 * r.val + h.val, by omega⟩

/-- The vector register that holds double register `r` under the natural packing (10_state.md R37). -/
def DReg.vector (r : DReg) : VReg := ⟨r.val / 2, by omega⟩

/-- The double register that holds float register `r` under the natural packing (10_state.md R37). -/
def FReg.double (r : FReg) : DReg := ⟨r.val / 2, by omega⟩

/-- The vector register that holds float register `r` under the natural packing (10_state.md R37). -/
def FReg.vector (r : FReg) : VReg := ⟨r.val / 4, by omega⟩

/-! ### Lanes -/

/-- Whether lane k is selected: lanes 0 to Size (45_vfpu.md R372). -/
def Lanes.has (lanes : Lanes) (k : Nat) : Bool := k ≤ lanes.toField

/-- The selected lanes, x first (45_vfpu.md R372). -/
def Lanes.selected : Lanes → List (Fin 4)
  | .x => [0]
  | .xy => [0, 1]
  | .xyz => [0, 1, 2]
  | .xyzw => [0, 1, 2, 3]

/-- A vector from a function of the lane number. -/
def Vec4.build (g : Nat → BitVec 32) : Vec4 := ⟨g 0, g 1, g 2, g 3⟩

/-- Lane k: 0 = x, 1 = y, 2 = z, 3 = w (10_state.md R35). -/
def Vec4.lane (a : Vec4) : Nat → BitVec 32
  | 0 => a.x
  | 1 => a.y
  | 2 => a.z
  | _ => a.w

/-- The vector with another lane k. -/
def Vec4.withLane (a : Vec4) (k : Nat) (word : BitVec 32) : Vec4 :=
  match k with
  | 0 => { a with x := word }
  | 1 => { a with y := word }
  | 2 => { a with z := word }
  | _ => { a with w := word }

/-! ### The three views of FPR_OVERLAY (10_state.md R37; log 3) -/

/-- The first (k = 0) or the second word of a double. -/
def wordOfDouble (lowFirst : Bool) (value : BitVec 64) (k : Nat) : BitVec 32 :=
  if (k == 0) == lowFirst then value.extractLsb' 0 32 else value.extractLsb' 32 32

/-- The double with another first or second word. -/
def doubleWithWord (lowFirst : Bool) (value : BitVec 64) (k : Nat) (word : BitVec 32) : BitVec 64 :=
  if (k == 0) == lowFirst then value.extractLsb' 32 32 ++ word else word ++ value.extractLsb' 0 32

/-- The double registers after a write of float register `r`. -/
def doublesAfterFloat (mode : FprOverlay) (d : Vector (BitVec 64) 64) (r : FReg) (value : BitVec 32) (counter : Nat) :
    Vector (BitVec 64) 64 :=
  match mode with
  | .unstated => d.set (FReg.double r) (Config.draw 64 counter)
  | .separate => d
  | .shared lowFirst => d.set (FReg.double r) (doubleWithWord lowFirst d[FReg.double r] (r.val % 2) value)

/-- The vector registers after a write of float register `r`. -/
def vectorsAfterFloat (mode : FprOverlay) (v : Vector Vec4 32) (r : FReg) (value : BitVec 32) (counter : Nat) :
    Vector Vec4 32 :=
  match mode with
  | .unstated => v.set (FReg.vector r) (drawVec4 counter)
  | .separate => v
  | .shared _ => v.set (FReg.vector r) (v[FReg.vector r].withLane (r.val % 4) value)

/-- The float registers after a write of double register `r`. -/
def floatsAfterDouble (mode : FprOverlay) (f : Vector (BitVec 32) 128) (r : DReg) (value : BitVec 64) (counter : Nat) :
    Vector (BitVec 32) 128 :=
  match mode with
  | .unstated => (f.set (DReg.float r 0) (Config.draw 32 counter)).set (DReg.float r 1) (Config.draw 32 (counter + 1))
  | .separate => f
  | .shared lowFirst =>
    (f.set (DReg.float r 0) (wordOfDouble lowFirst value 0)).set (DReg.float r 1) (wordOfDouble lowFirst value 1)

/-- The vector registers after a write of double register `r`. -/
def vectorsAfterDouble (mode : FprOverlay) (v : Vector Vec4 32) (r : DReg) (value : BitVec 64) (counter : Nat) :
    Vector Vec4 32 :=
  match mode with
  | .unstated => v.set (DReg.vector r) (drawVec4 counter)
  | .separate => v
  | .shared lowFirst =>
    v.set (DReg.vector r) ((v[DReg.vector r].withLane (2 * (r.val % 2)) (wordOfDouble lowFirst value 0)).withLane
      (2 * (r.val % 2) + 1) (wordOfDouble lowFirst value 1))

/-- The float registers after a write of lanes of vector register `r`. -/
def floatsAfterLanes (mode : FprOverlay) (f : Vector (BitVec 32) 128) (r : VReg) (lanes : Lanes) (value : Vec4)
    (counter : Nat) : Vector (BitVec 32) 128 :=
  match mode with
  | .unstated => (Lanes.selected .xyzw).foldl (fun f k => f.set (VReg.float r k) (Config.draw 32 (counter + k.val))) f
  | .separate => f
  | .shared _ => (Lanes.selected lanes).foldl (fun f k => f.set (VReg.float r k) (value.lane k.val)) f

/-- The double registers after a write of lanes of vector register `r`. -/
def doublesAfterLanes (mode : FprOverlay) (d : Vector (BitVec 64) 64) (r : VReg) (lanes : Lanes) (value : Vec4)
    (counter : Nat) : Vector (BitVec 64) 64 :=
  match mode with
  | .unstated => (d.set (VReg.double r 0) (Config.draw 64 counter)).set (VReg.double r 1) (Config.draw 64 (counter + 1))
  | .separate => d
  | .shared lowFirst =>
    (Lanes.selected lanes).foldl
      (fun d k => doublesAfterFloat (.shared lowFirst) d (VReg.float r k) (value.lane k.val) counter) d

/-- Writes a float register, and the registers of the other two views as FPR_OVERLAY says (10_state.md R37; log 3). -/
def State.setF (s : State) (r : FReg) (value : BitVec 32) : State :=
  { s with
    f := s.f.set r value
    d := doublesAfterFloat s.params.fprOverlay s.d r value s.draws
    v := vectorsAfterFloat s.params.fprOverlay s.v r value s.draws
    draws := s.draws + 4 }

/-- Writes a double register, and the registers of the other two views as FPR_OVERLAY says (10_state.md R37; log 3). -/
def State.setD (s : State) (r : DReg) (value : BitVec 64) : State :=
  { s with
    d := s.d.set r value
    f := floatsAfterDouble s.params.fprOverlay s.f r value (s.draws + 4)
    v := vectorsAfterDouble s.params.fprOverlay s.v r value s.draws
    draws := s.draws + 6 }

/-- Writes the selected lanes of a vector register, whose other lanes `value` holds as they were, and the registers of
the other two views as FPR_OVERLAY says (45_vfpu.md R372, 10_state.md R37; log 3). -/
def State.setLanes (s : State) (r : VReg) (lanes : Lanes) (value : Vec4) : State :=
  { s with
    v := s.v.set r value
    f := floatsAfterLanes s.params.fprOverlay s.f r lanes value s.draws
    d := doublesAfterLanes s.params.fprOverlay s.d r lanes value s.draws
    draws := s.draws + 4 }

/-- Writes a vector register. -/
def State.setV (s : State) (r : VReg) (value : Vec4) : State := s.setLanes r .xyzw value

/-! ### The accumulator and the flags -/

/-- Writes the accumulator, which overlaps no register (45_vfpu.md R374). -/
def State.setAcc (s : State) (value : Vec4) : State := { s with acc := value }

/-- Writes the flags (10_state.md R28). -/
def State.setFlags (s : State) (z sg u : Bool) : State := { s with flagZ := z, flagS := sg, flagU := u }

/-- Flips the XCHG bit (43_alu.md R281). -/
def State.flipXchg (s : State) : State := { s with xchg := !s.xchg }

/-- Ends the run (43_alu.md R283, 40_bundle.md R170). -/
def State.endRun (s : State) : State := { s with status := .ended }

/-! ### The program counter and the return addresses -/

/-- Sets the program counter. -/
def State.setPc (s : State) (a : Addr) : State := { s with pc := a }

/-- The number W of opcodes in the bundle (40_bundle.md R161). -/
def State.width (s : State) : Nat := if s.xchg then 4 else 2

/-- The address of the bundle that follows: pc + 4 W (10_state.md R26, 40_bundle.md R168). -/
def State.nextPc (s : State) : Addr := s.pc + BitVec.ofNat 64 (4 * s.width)

/-- Advances to the bundle that follows (10_state.md R26, 40_bundle.md R168). -/
def State.advance (s : State) : State := s.setPc s.nextPc

/-- Replaces the taken transfers whose targets are not reached yet (70_reset_and_hazards.md R481). -/
def State.setRedirects (s : State) (l : List Redirect) : State := { s with redirects := l }

/-- A taken control transfer: to the target, or, under BRANCH_DELAY, on to the bundle that follows with the target
still to come (40_bundle.md R168, 70_reset_and_hazards.md R481; log 21). -/
def State.jump (s : State) (target : Addr) : State :=
  if s.params.branchDelay = 0 then s.setPc target
  else s.advance.setRedirects (s.redirects ++ [⟨s.params.branchDelay + 1, target⟩])

/-- Replaces the return-address storage (10_state.md R42). -/
def State.setRs (s : State) (l : List Addr) : State := { s with rs := l }

/-! ### Memory -/

/-- The size of a space (00_scope.md R4, R5). -/
def State.sizeOf (s : State) : Space → Nat
  | .isram => s.params.isramSize
  | .dsram => s.params.dsramSize
  | .cache => s.params.cacheSize
  | .iosram => Config.iosramSize
  | .ram => s.params.ramSize

/-- The bytes of the space CACHE under CACHE_MODEL (10_state.md R40). -/
def State.cacheBytes (s : State) : Memory :=
  match s.params.cacheModel with
  | .privateMemory => s.cache

/-- Replaces the bytes of the space CACHE under CACHE_MODEL (10_state.md R40). -/
def State.setCacheBytes (s : State) (m : Memory) : State :=
  match s.params.cacheModel with
  | .privateMemory => { s with cache := m }

/-- The bytes of a space. IOSRAM holds none that the program could read back (10_state.md R41). -/
def State.mem (s : State) : Space → Memory
  | .isram => s.isram
  | .dsram => s.dsram
  | .cache => s.cacheBytes
  | .iosram => []
  | .ram => s.ram

/-- Replaces the bytes of a space. -/
def State.setMem (s : State) (sp : Space) (m : Memory) : State :=
  match sp with
  | .isram => { s with isram := m }
  | .dsram => { s with dsram := m }
  | .cache => s.setCacheBytes m
  | .iosram => s
  | .ram => { s with ram := m }

/-- The byte of a space at an address, or none where it holds no value. -/
def State.byteAt (s : State) (sp : Space) (a : Nat) : Option Byte := (s.mem sp).get? a

/-- Whether `n` bytes at address `a` lie in a space and the address fits 64 bits (20_memory.md R66, R72). An address is
below 0 only under IMM_SIGNED (30_encoding.md R104; log 22). -/
def State.inSpace (s : State) (sp : Space) (a : Int) (n : Nat) : Bool :=
  0 ≤ a && a < 2 ^ 64 && a + n ≤ s.sizeOf sp

/-- Whether the alignment rule lets an access pass (20_memory.md R63). -/
def State.alignedFor (s : State) (a n : Nat) : Bool :=
  match s.params.misaligned with
  | .fault => a % n == 0
  | .allow => true

/-- The first two checks of an access, in their order (42_lsu.md R259): range, then alignment. An access that passes
them has its address as a natural number. -/
def State.checkAccess (s : State) (sp : Space) (a : Int) (n : Nat) : Result Nat :=
  if !s.inSpace sp a n then .fault (.addressFault sp a n)
  else if !s.alignedFor a.toNat n then .fault (.misalignedAccess sp a.toNat n)
  else .next a.toNat

/-- The transfers that 20_memory.md R76 protects: those in flight, and those no WAIT has ordered yet (log 10). -/
def State.unordered (s : State) : List Transfer := s.dmaq ++ s.landed

/-- Whether a transfer writes one of the bytes. -/
def Transfer.writes (t : Transfer) (sp : Space) (a n : Nat) : Bool :=
  t.dst == sp && rangesOverlap t.dstAddr t.len a n

/-- Whether a transfer reads one of the bytes. -/
def Transfer.reads (t : Transfer) (sp : Space) (a n : Nat) : Bool :=
  t.src == sp && rangesOverlap t.srcAddr t.len a n

/-- Whether a core read of the bytes races a transfer (20_memory.md R76). -/
def State.readRaces (s : State) (sp : Space) (a n : Nat) : Bool :=
  s.unordered.any fun t => t.writes sp a n

/-- Whether a core write of the bytes races a transfer (20_memory.md R76). -/
def State.writeRaces (s : State) (sp : Space) (a n : Nat) : Bool :=
  s.unordered.any fun t => t.writes sp a n || t.reads sp a n

/-- A load of `n` bytes with its checks in their order (42_lsu.md R259, 20_memory.md R66). -/
def State.load (s : State) (sp : Space) (a : Int) (n : Nat) : Result Nat :=
  andThen (s.checkAccess sp a n) fun k =>
    if s.readRaces sp k n then .refused .dmaRace
    else
      match (s.mem sp).readBytes k n with
      | .ok bs => .next (leNat bs)
      | .error e => .fault (.uninitialisedRead sp e)

/-- A store of the `n` low bytes of a value with its checks in their order (42_lsu.md R259, 20_memory.md R66, R71). -/
def State.store (s : State) (sp : Space) (a : Int) (n value : Nat) : Result State :=
  andThen (s.checkAccess sp a n) fun k =>
    if s.writeRaces sp k n then .refused .dmaRace
    else .next (s.setMem sp ((s.mem sp).writeBytes k (leBytes n value)))

/-! ### IOSRAM (20_memory.md R69; log 6) -/

/-- Records an access to IOSRAM. -/
def State.logIo (s : State) (e : IoEvent) : State := { s with ioLog := s.ioLog ++ [e] }

/-- The environment's answer to an IN of `n` bytes: the next one supplied, else a free value (42_lsu.md R236). -/
def State.ioAnswer (s : State) (n : Nat) : Nat :=
  match s.ioInputs with
  | v :: _ => v.toNat % 256 ^ n
  | [] => (Config.draw 64 s.draws).toNat % 256 ^ n

/-- The answer has been taken. -/
def State.ioTaken (s : State) : State := { s with ioInputs := s.ioInputs.tail, draws := s.draws + 1 }

/-! ### Transfers -/

/-- Replaces the transfers in flight. -/
def State.setDmaq (s : State) (q : List Transfer) : State := { s with dmaq := q }

/-- Replaces the transfers that no WAIT has ordered. -/
def State.setLanded (s : State) (q : List Transfer) : State := { s with landed := q }

/-- Whether a transfer's range lies in a space (44_agu.md R351 (2)). -/
def State.rangeInSpace (s : State) (sp : Space) (a : Int) (len : Nat) : Bool := 0 ≤ a && a + len ≤ s.sizeOf sp

/-- Starting a transfer (44_agu.md R351), in unbounded integers: nothing for length 0, then the range of the source,
that of the destination, the races, and the record. -/
def State.startTransfer (s : State) (src : Space) (srcAddr : Int) (dst : Space) (dstAddr : Int) (len : Nat) :
    Result State :=
  if len = 0 then .next s
  else if !s.rangeInSpace src srcAddr len then .fault (.addressFault src srcAddr len)
  else if !s.rangeInSpace dst dstAddr len then .fault (.addressFault dst dstAddr len)
  else if s.writeRaces dst dstAddr.toNat len || s.readRaces src srcAddr.toNat len then .refused .dmaRace
  else .next (s.setDmaq (s.dmaq ++ [⟨src, srcAddr.toNat, dst, dstAddr.toNat, len, []⟩]))

/-! ### The end of a bundle -/

/-- The end of a bundle: a transfer whose delay is over takes pc to its target, the others wait one bundle less
(70_reset_and_hazards.md R481), and the destinations of earlier bundles settle by one bundle beside the new ones
(R483). It changes nothing while BRANCH_DELAY and LATENCY are 0. -/
def State.endBundle (s : State) (results : List Unsettled) : State :=
  { s with
    pc := (s.redirects.find? fun r => r.bundles ≤ 1).elim s.pc fun r => r.target
    redirects := (s.redirects.filter fun r => 1 < r.bundles).map fun r => ⟨r.bundles - 1, r.target⟩
    unsettled := ((s.unsettled.filter fun u => 1 < u.bundles).map fun u => ⟨u.loc, u.bundles - 1⟩) ++ results }

/-! ### Taking a fault, and a refusal (60_exceptions.md R440, R441) -/

/-- Taking a fault: nothing of the bundle is committed, pc keeps the address of the bundle, and the status records the
kind, the detail, the pc and the slot (60_exceptions.md R441). No other state is saved and nothing returns from it
(R452, R453). -/
def State.takeFault (s : State) (e : Fault) (slot : Option Nat) : State :=
  { s with status := .faulted e s.pc slot }

/-- Taking a refusal: nothing of the bundle is committed and the status records the reason (60_exceptions.md R440). -/
def State.takeRefusal (s : State) (e : Refusal) : State := { s with status := .refused e }

end Sys2Proof.Machine
end

