-- ==== Sys2Proof/Machine/Operands.lean ====
section
/-! DEFINITION. The operand forms: sizes, immediates, effective addresses, branch targets, lanes, and the writing of
narrow results (20_memory.md R70 to R72, 41_bru.md R183, R184, 42_lsu.md R231, R257, 43_alu.md R284, R285,
45_vfpu.md R372, R395). -/

namespace Sys2Proof.Machine

open Sys2Proof

/-! ### Sizes and integer operands -/

/-- n = 1 << Size: the bytes of an operation (30_encoding.md R105). -/
def Size.bytes (size : Size) : Nat := 2 ^ size.toField

/-- N = 8 n: the bits of an operation (30_encoding.md R105). -/
def Size.bits (size : Size) : Nat := 8 * Size.bytes size

/-- lo_N of a general register (43_alu.md R284). -/
def State.operand (s : State) (r : Reg) (size : Size) : BitVec (Size.bits size) :=
  (s.getX r).setWidth (Size.bits size)

/-! ### Immediates -/

/-- Whether IMM_SIGNED names an instruction (30_encoding.md R104). -/
def State.signsImm (s : State) (m : Mnemonic) : Bool := s.params.immSigned.contains m

/-- An integer immediate as a number: unsigned, or signed under IMM_SIGNED (30_encoding.md R104). -/
def State.immValue {n : Nat} (s : State) (m : Mnemonic) (value : BitVec n) : Int :=
  if s.signsImm m then value.toInt else value.toNat

/-- An integer immediate extended to 64 bits: by zeros, or by its sign under IMM_SIGNED (30_encoding.md R104). -/
def State.immExt {n : Nat} (s : State) (m : Mnemonic) (value : BitVec n) : XWord :=
  if s.signsImm m then value.signExtend 64 else value.setWidth 64

/-- lo_N of an extended immediate (30_encoding.md R104, 43_alu.md R284). -/
def State.immOperand {n : Nat} (s : State) (m : Mnemonic) (value : BitVec n) (size : Size) : BitVec (Size.bits size) :=
  (s.immExt m value).setWidth (Size.bits size)

/-! ### Integer results -/

/-- ext_N: the 64 bits written for a result of N bits, under NARROW_UPPER (43_alu.md R285). `marked` holds for the
operations noted "Sign-extended"; `old` is the destination before the write; `counter` numbers the free upper bits. -/
def extendResult (mode : NarrowUpper) (marked : Bool) (size : Size) (old : XWord) (counter : Nat)
    (res : BitVec (Size.bits size)) : XWord :=
  let upper := BitVec.allOnes 64 <<< Size.bits size
  match mode with
  | .zero => res.setWidth 64
  | .sextMarked => if marked then res.signExtend 64 else res.setWidth 64
  | .preserve => (old &&& upper) ||| res.setWidth 64
  | .draw => (Config.draw 64 counter &&& upper) ||| res.setWidth 64

/-- Writes the N-bit result of an operation to a general register (43_alu.md R285); `none` is a result the spec
leaves free (60_exceptions.md R449). -/
def State.writeResult (s : State) (dst : Reg) (size : Size) (marked : Bool)
    (res : Option (BitVec (Size.bits size))) : State :=
  let value := res.getD (Config.draw (Size.bits size) s.draws)
  (s.setX dst (extendResult s.params.narrowUpper marked size (s.getX dst) s.draws value)).tick 1

/-- The 64 bits a load of n bytes writes, under LOAD_EXT (20_memory.md R70). -/
def extendLoad (mode : LoadExt) (size : Size) (old : XWord) (value : Nat) : XWord :=
  let low : BitVec (Size.bits size) := BitVec.ofNat _ value
  match mode with
  | .zero => low.setWidth 64
  | .sign => low.signExtend 64
  | .preserve => (old &&& (BitVec.allOnes 64 <<< Size.bits size)) ||| low.setWidth 64

/-! ### Effective addresses and post-increment -/

/-- EA = x[A] + I, as a mathematical sum (20_memory.md R72, 42_lsu.md R231), the immediate as IMM_SIGNED says
(30_encoding.md R104; log 22). -/
def State.effAddr {n : Nat} (s : State) (m : Mnemonic) (base : Reg) (value : BitVec n) : Int :=
  (s.getX base).toNat + s.immValue m value

/-- The amount of the post-increment of an access of n bytes, under POSTINC (42_lsu.md R257). -/
def State.postIncBy (s : State) (n : Nat) : Nat := s.params.postInc.getD n

/-- The post-increment: the register plus the amount, not EA plus it (42_lsu.md R257). -/
def State.postInc (s : State) (base : Reg) (inc : Bool) (n : Nat) : State :=
  if inc then s.setX base (s.getX base + BitVec.ofNat 64 (s.postIncBy n)) else s

/-- The register that the one-bit *Source* field of LDMX and STMX names, under LSX_SOURCE_MAP (30_encoding.md R120). -/
def State.lsxBase (s : State) (source : Bool) : Reg :=
  match s.params.lsxSourceMap, source with
  | .prose, false => 62
  | .prose, true => 63
  | .examples, false => 63
  | .examples, true => 62

/-! ### Branch targets -/

/-- The base of a relative target, under REL_BASE (41_bru.md R183). -/
def State.relBase (s : State) : Addr :=
  match s.params.relBase with
  | .current => s.pc
  | .next => s.nextPc

/-- A relative target: base + sext_64(Label) * 8 (41_bru.md R183). -/
def State.relTarget (s : State) (label : Label) : Addr := s.relBase + label.signExtend 64 * 8#64

/-- An absolute target: zext_64(Label) * 8 (41_bru.md R184). -/
def absTarget (label : Label) : Addr := label.setWidth 64 * 8#64

/-! ### Floating-point immediates (30_encoding.md R106) -/

/-- A 21-bit immediate as a binary32 pattern. -/
def floatImm (value : BitVec 21) : BitVec 32 := value.setWidth 32 <<< 11

/-- A 22-bit immediate as a binary64 pattern. -/
def doubleImm (value : BitVec 22) : BitVec 64 := value.setWidth 64 <<< 42

/-- A 23-bit immediate as the binary32 pattern of every lane. -/
def vectorImm (value : BitVec 23) : BitVec 32 := value.setWidth 32 <<< 9

/-! ### Lanes -/

/-- The lanes of a result where selected, a quiet NaN for a NaN; the other lanes keep their value (45_vfpu.md R371,
R372). -/
def mergeLanes (mode : NanResult) (counter : Nat) (lanes : Lanes) (old : Vec4)
    (res : Nat → Option (BitVec 32)) : Vec4 :=
  Vec4.build fun k => if Lanes.has lanes k then (res k).getD (nan32 mode (counter + k)) else old.lane k

/-- Lane k of a general register: bits 16 k + 15 to 16 k (45_vfpu.md R395). -/
def fixLane (a : XWord) (k : Nat) : BitVec 16 := a.extractLsb' (16 * k) 16

/-- The general register of four 16-bit lanes, lane 0 lowest (45_vfpu.md R395). -/
def packFix (g : Nat → BitVec 16) : XWord := g 3 ++ g 2 ++ g 1 ++ g 0

/-- The 16-bit lanes of a result where selected, free where the conversion is out of range; the other lanes keep their
value (45_vfpu.md R372, R404). -/
def mergeFix (counter : Nat) (lanes : Lanes) (old : XWord) (res : Nat → Option (BitVec 16)) : XWord :=
  packFix fun k => if Lanes.has lanes k then (res k).getD (Config.draw 16 (counter + k)) else fixLane old k

/-- The 16 bytes of a vector as a number: lane x at the lowest address (42_lsu.md R256). -/
def Vec4.toNat128 (a : Vec4) : Nat :=
  a.x.toNat + 2 ^ 32 * a.y.toNat + 2 ^ 64 * a.z.toNat + 2 ^ 96 * a.w.toNat

/-- The vector of 16 bytes read as a number (42_lsu.md R256). -/
def Vec4.ofNat128 (n : Nat) : Vec4 := Vec4.build fun k => BitVec.ofNat 32 (n / 2 ^ (32 * k))

end Sys2Proof.Machine
end

