-- ==== Sys2Proof/Machine/Agu.lean ====
section
/-! DEFINITION. The AGU instructions: starting a transfer, and WAIT (44_agu.md). -/

namespace Sys2Proof.Machine

open Sys2Proof

/-! ### Shared operations -/

/-- The byte address of a direct transfer of instruction `m`: (register + base) * 32, in unbounded integers
(44_agu.md R351, section 2; 30_encoding.md R104). -/
def State.directAddr (s : State) (m : Mnemonic) (r : Reg) (base : BitVec 12) : Int :=
  s.effAddr m r base * Config.dmaGranule

/-- The byte address of a list transfer: 32 * register, in unbounded integers (44_agu.md R351, section 3). -/
def State.listAddr (s : State) (r : Reg) : Nat := Config.dmaGranule * (s.getX r).toNat

/-- The length of a direct transfer: 32 * (1 + Size) (44_agu.md section 2). -/
def directLen (long : Bool) : Nat := Config.dmaGranule * (1 + long.toNat)

/-- The length of a list transfer of instruction `m`: 32 * Size (44_agu.md section 3). A size below 0, under
IMM_SIGNED, transfers nothing (30_encoding.md R104; log 22). -/
def State.listLen (s : State) (m : Mnemonic) (blocks : BitVec 12) : Nat :=
  Config.dmaGranule * (s.immValue m blocks).toNat

/-- Starts a transfer and goes on to the bundle that follows (44_agu.md R351). -/
def State.startAndAdvance (s : State) (src : Space) (srcAddr : Int) (dst : Space) (dstAddr : Int) (len : Nat) :
    Result State :=
  andThen (s.startTransfer src srcAddr dst dstAddr len) fun s' => .next s'.advance

/-! ### The instructions -/

/-- LDDMA (44_agu.md R352). -/
def execLddma (ramReg dsReg : Reg) (ramBase dsBase : BitVec 12) (long : Bool) (s : State) : Result State :=
  s.startAndAdvance .ram (s.directAddr .lddma ramReg ramBase) .dsram (s.directAddr .lddma dsReg dsBase) (directLen long)

/-- STDMA (44_agu.md R353). -/
def execStdma (ramReg dsReg : Reg) (ramBase dsBase : BitVec 12) (long : Bool) (s : State) : Result State :=
  s.startAndAdvance .dsram (s.directAddr .stdma dsReg dsBase) .ram (s.directAddr .stdma ramReg ramBase) (directLen long)

/-- LDDMAR (44_agu.md R354). -/
def execLddmar (dsReg ramReg : Reg) (blocks : BitVec 12) (s : State) : Result State :=
  s.startAndAdvance .ram (s.listAddr ramReg) .dsram (s.listAddr dsReg) (s.listLen .lddmar blocks)

/-- STDMAR (44_agu.md R355). -/
def execStdmar (dsReg ramReg : Reg) (blocks : BitVec 12) (s : State) : Result State :=
  s.startAndAdvance .dsram (s.listAddr dsReg) .ram (s.listAddr ramReg) (s.listLen .stdmar blocks)

/-- DMAIR (44_agu.md R356). -/
def execDmair (isReg ramReg : Reg) (blocks : BitVec 12) (s : State) : Result State :=
  s.startAndAdvance .ram (s.listAddr ramReg) .isram (s.listAddr isReg) (s.listLen .dmair blocks)

/-- WAIT: with transfers in flight the core is held, nothing changes (40_bundle.md R173; log 12); with none, every
earlier transfer is ordered before what follows (44_agu.md R358, 20_memory.md R77; log 10). -/
def execWait (s : State) : Result State :=
  match s.dmaq with
  | [] => .next (s.setLanded []).advance
  | _ :: _ => .next s

end Sys2Proof.Machine
end

