-- ==== Sys2Proof/Machine/Alu.lean ====
section
/-! DEFINITION. The ALU instructions (43_alu.md). -/

namespace Sys2Proof.Machine

open Sys2Proof

/-! ### The thirteen operations as functions of (L, R) (43_alu.md R287); `none` is a result the spec leaves free -/

/-- (L + R) mod 2^N (43_alu.md R290). -/
def opAdd (n : Nat) (left right : BitVec n) : Option (BitVec n) := some (left + right)

/-- (L - R) mod 2^N (43_alu.md R291). -/
def opSub (n : Nat) (left right : BitVec n) : Option (BitVec n) := some (left - right)

/-- lo_N of the signed product (43_alu.md R292). -/
def opMuls (n : Nat) (left right : BitVec n) : Option (BitVec n) := some (BitVec.ofInt n (left.toInt * right.toInt))

/-- lo_N of the unsigned product (43_alu.md R293). -/
def opMulu (n : Nat) (left right : BitVec n) : Option (BitVec n) := some (BitVec.ofNat n (left.toNat * right.toNat))

/-- The signed quotient, rounded toward zero (PRESUMED, log 17); free for a zero divisor and for -2^(N-1) / -1
(43_alu.md R288, R294). -/
def opDivs (n : Nat) (left right : BitVec n) : Option (BitVec n) :=
  if right = 0 || (left.toInt == -(2 ^ (n - 1) : Int) && right.toInt == -1) then none
  else some (BitVec.ofInt n (left.toInt.tdiv right.toInt))

/-- The unsigned quotient; free for a zero divisor (43_alu.md R288, R295). -/
def opDivu (n : Nat) (left right : BitVec n) : Option (BitVec n) :=
  if right = 0 then none else some (BitVec.ofNat n (left.toNat / right.toNat))

/-- Bitwise AND (43_alu.md R296). -/
def opAnd (n : Nat) (left right : BitVec n) : Option (BitVec n) := some (left &&& right)

/-- Bitwise OR (43_alu.md R297). -/
def opOr (n : Nat) (left right : BitVec n) : Option (BitVec n) := some (left ||| right)

/-- Bitwise XOR (43_alu.md R298). -/
def opXor (n : Nat) (left right : BitVec n) : Option (BitVec n) := some (left ^^^ right)

/-- The shift left of ASL; free for an amount of N or more (43_alu.md R289, R299). -/
def opAsl (n : Nat) (left right : BitVec n) : Option (BitVec n) :=
  if n ≤ right.toNat then none else some (left <<< right.toNat)

/-- The shift left of LSL; free for an amount of N or more (43_alu.md R289, R300). -/
def opLsl (n : Nat) (left right : BitVec n) : Option (BitVec n) :=
  if n ≤ right.toNat then none else some (left <<< right.toNat)

/-- The shift right that copies bit N-1; free for an amount of N or more (43_alu.md R289, R301). -/
def opAsr (n : Nat) (left right : BitVec n) : Option (BitVec n) :=
  if n ≤ right.toNat then none else some (left.sshiftRight right.toNat)

/-- The shift right that fills with zeros; free for an amount of N or more (43_alu.md R289, R302). -/
def opLsr (n : Nat) (left right : BitVec n) : Option (BitVec n) :=
  if n ≤ right.toNat then none else some (left >>> right.toNat)

/-! ### The three operand forms (43_alu.md R284, R285) -/

/-- REG-REG-REG: `marked` is the note "Sign-extended". -/
def State.aluRrr (s : State) (op : (n : Nat) → BitVec n → BitVec n → Option (BitVec n)) (marked : Bool)
    (dst left right : Reg) (size : Size) : Result State :=
  .next (s.writeResult dst size marked (op _ (s.operand left size) (s.operand right size))).advance

/-- REG-REG-IMM, the immediate of instruction `m` (30_encoding.md R104). -/
def State.aluRri (s : State) (m : Mnemonic) (op : (n : Nat) → BitVec n → BitVec n → Option (BitVec n)) (marked : Bool)
    (dst left : Reg) (imm : BitVec 10) (size : Size) : Result State :=
  .next (s.writeResult dst size marked (op _ (s.operand left size) (s.immOperand m imm size))).advance

/-- REG-IMM: the destination is the left operand, the immediate that of instruction `m` (30_encoding.md R104). -/
def State.aluRi (s : State) (m : Mnemonic) (op : (n : Nat) → BitVec n → BitVec n → Option (BitVec n)) (marked : Bool)
    (dst : Reg) (imm : BitVec 16) (size : Size) : Result State :=
  .next (s.writeResult dst size marked (op _ (s.operand dst size) (s.immOperand m imm size))).advance

/-! ### XCHG, NOP, MOVEI -/

/-- XCHG: the next bundle has the other width, this one advances by its own (43_alu.md R281, 40_bundle.md R169). -/
def execXchg (s : State) : Result State := .next s.advance.flipXchg

/-- NOP, and the end of the program when End = 1 (43_alu.md R283). -/
def execNop (fin : Bool) (s : State) : Result State :=
  .next (if fin then s.advance.endRun else s.advance)

/-- MOVEI: the extended immediate (43_alu.md R329, 30_encoding.md R104, R131). -/
def execMovei (dst : Reg) (imm : BitVec 22) (s : State) : Result State :=
  .next (s.setX dst (s.immExt .movei imm)).advance

/-! ### REG-REG-REG forms -/

/-- ADD (43_alu.md R290). -/
def execAdd (dst left right : Reg) (size : Size) (s : State) : Result State :=
  s.aluRrr opAdd false dst left right size

/-- SUB (43_alu.md R291). -/
def execSub (dst left right : Reg) (size : Size) (s : State) : Result State :=
  s.aluRrr opSub false dst left right size

/-- MULS (43_alu.md R292). -/
def execMuls (dst left right : Reg) (size : Size) (s : State) : Result State :=
  s.aluRrr opMuls true dst left right size

/-- MULU (43_alu.md R293). -/
def execMulu (dst left right : Reg) (size : Size) (s : State) : Result State :=
  s.aluRrr opMulu false dst left right size

/-- DIVS (43_alu.md R294). -/
def execDivs (dst left right : Reg) (size : Size) (s : State) : Result State :=
  s.aluRrr opDivs true dst left right size

/-- DIVU (43_alu.md R295). -/
def execDivu (dst left right : Reg) (size : Size) (s : State) : Result State :=
  s.aluRrr opDivu false dst left right size

/-- AND (43_alu.md R296). -/
def execAnd (dst left right : Reg) (size : Size) (s : State) : Result State :=
  s.aluRrr opAnd false dst left right size

/-- OR (43_alu.md R297). -/
def execOr (dst left right : Reg) (size : Size) (s : State) : Result State :=
  s.aluRrr opOr false dst left right size

/-- XOR (43_alu.md R298). -/
def execXor (dst left right : Reg) (size : Size) (s : State) : Result State :=
  s.aluRrr opXor false dst left right size

/-- ASL (43_alu.md R299). -/
def execAsl (dst left right : Reg) (size : Size) (s : State) : Result State :=
  s.aluRrr opAsl true dst left right size

/-- LSL (43_alu.md R300). -/
def execLsl (dst left right : Reg) (size : Size) (s : State) : Result State :=
  s.aluRrr opLsl false dst left right size

/-- ASR (43_alu.md R301). -/
def execAsr (dst left right : Reg) (size : Size) (s : State) : Result State :=
  s.aluRrr opAsr true dst left right size

/-- LSR (43_alu.md R302). -/
def execLsr (dst left right : Reg) (size : Size) (s : State) : Result State :=
  s.aluRrr opLsr false dst left right size

/-! ### REG-REG-IMM forms -/

/-- ADDI (43_alu.md R303). -/
def execAddi (dst left : Reg) (imm : BitVec 10) (size : Size) (s : State) : Result State :=
  s.aluRri .addi opAdd false dst left imm size

/-- SUBI (43_alu.md R304). -/
def execSubi (dst left : Reg) (imm : BitVec 10) (size : Size) (s : State) : Result State :=
  s.aluRri .subi opSub false dst left imm size

/-- MULSI (43_alu.md R305). -/
def execMulsi (dst left : Reg) (imm : BitVec 10) (size : Size) (s : State) : Result State :=
  s.aluRri .mulsi opMuls true dst left imm size

/-- MULUI (43_alu.md R306). -/
def execMului (dst left : Reg) (imm : BitVec 10) (size : Size) (s : State) : Result State :=
  s.aluRri .mului opMulu false dst left imm size

/-- DIVSI (43_alu.md R307). -/
def execDivsi (dst left : Reg) (imm : BitVec 10) (size : Size) (s : State) : Result State :=
  s.aluRri .divsi opDivs true dst left imm size

/-- DIVUI (43_alu.md R308). -/
def execDivui (dst left : Reg) (imm : BitVec 10) (size : Size) (s : State) : Result State :=
  s.aluRri .divui opDivu false dst left imm size

/-- ANDI (43_alu.md R309). -/
def execAndi (dst left : Reg) (imm : BitVec 10) (size : Size) (s : State) : Result State :=
  s.aluRri .andi opAnd false dst left imm size

/-- ORI (43_alu.md R310). -/
def execOri (dst left : Reg) (imm : BitVec 10) (size : Size) (s : State) : Result State :=
  s.aluRri .ori opOr false dst left imm size

/-- XORI (43_alu.md R311). -/
def execXori (dst left : Reg) (imm : BitVec 10) (size : Size) (s : State) : Result State :=
  s.aluRri .xori opXor false dst left imm size

/-- ASLI (43_alu.md R312). -/
def execAsli (dst left : Reg) (imm : BitVec 10) (size : Size) (s : State) : Result State :=
  s.aluRri .asli opAsl true dst left imm size

/-- LSLI (43_alu.md R313). -/
def execLsli (dst left : Reg) (imm : BitVec 10) (size : Size) (s : State) : Result State :=
  s.aluRri .lsli opLsl false dst left imm size

/-- ASRI (43_alu.md R314). -/
def execAsri (dst left : Reg) (imm : BitVec 10) (size : Size) (s : State) : Result State :=
  s.aluRri .asri opAsr true dst left imm size

/-- LSRI (43_alu.md R315). -/
def execLsri (dst left : Reg) (imm : BitVec 10) (size : Size) (s : State) : Result State :=
  s.aluRri .lsri opLsr false dst left imm size

/-! ### REG-IMM forms -/

/-- ADDQ (43_alu.md R316). -/
def execAddq (dst : Reg) (imm : BitVec 16) (size : Size) (s : State) : Result State :=
  s.aluRi .addq opAdd false dst imm size

/-- SUBQ (43_alu.md R317). -/
def execSubq (dst : Reg) (imm : BitVec 16) (size : Size) (s : State) : Result State :=
  s.aluRi .subq opSub false dst imm size

/-- MULSQ (43_alu.md R318). -/
def execMulsq (dst : Reg) (imm : BitVec 16) (size : Size) (s : State) : Result State :=
  s.aluRi .mulsq opMuls true dst imm size

/-- MULUQ (43_alu.md R319). -/
def execMuluq (dst : Reg) (imm : BitVec 16) (size : Size) (s : State) : Result State :=
  s.aluRi .muluq opMulu false dst imm size

/-- DIVSQ (43_alu.md R320). -/
def execDivsq (dst : Reg) (imm : BitVec 16) (size : Size) (s : State) : Result State :=
  s.aluRi .divsq opDivs true dst imm size

/-- DIVUQ (43_alu.md R321). -/
def execDivuq (dst : Reg) (imm : BitVec 16) (size : Size) (s : State) : Result State :=
  s.aluRi .divuq opDivu false dst imm size

/-- ANDQ (43_alu.md R322). -/
def execAndq (dst : Reg) (imm : BitVec 16) (size : Size) (s : State) : Result State :=
  s.aluRi .andq opAnd false dst imm size

/-- ORQ (43_alu.md R323). -/
def execOrq (dst : Reg) (imm : BitVec 16) (size : Size) (s : State) : Result State :=
  s.aluRi .orq opOr false dst imm size

/-- XORQ (43_alu.md R324). -/
def execXorq (dst : Reg) (imm : BitVec 16) (size : Size) (s : State) : Result State :=
  s.aluRi .xorq opXor false dst imm size

/-- ASLQ (43_alu.md R325). -/
def execAslq (dst : Reg) (imm : BitVec 16) (size : Size) (s : State) : Result State :=
  s.aluRi .aslq opAsl true dst imm size

/-- LSLQ (43_alu.md R326). -/
def execLslq (dst : Reg) (imm : BitVec 16) (size : Size) (s : State) : Result State :=
  s.aluRi .lslq opLsl false dst imm size

/-- ASRQ (43_alu.md R327). -/
def execAsrq (dst : Reg) (imm : BitVec 16) (size : Size) (s : State) : Result State :=
  s.aluRi .asrq opAsr true dst imm size

/-- LSRQ (43_alu.md R328). -/
def execLsrq (dst : Reg) (imm : BitVec 16) (size : Size) (s : State) : Result State :=
  s.aluRi .lsrq opLsr false dst imm size

end Sys2Proof.Machine
end

