-- ==== Sys2Proof/Machine/Fp.lean ====
section
/-! DEFINITION. The numerics record FP (45_vfpu.md R371): IEEE 754 binary32 and binary64 arithmetic on bit patterns,
computed exactly on naturals and rounded once. A result that is a NaN is `none`: its pattern is a free quiet NaN
(log 5). Fields of the record: the rounding direction, `fused`, `cvt_round`, the subnormal numbers, the pattern of a NaN
and the dot-product order (92_eei_decisions.md D37; log 7, log 20). -/

namespace Sys2Proof.Machine

open Sys2Proof

/-- A binary interchange format: the widths of exponent and mantissa fields. -/
structure FpFormat where
  expBits : Nat
  manBits : Nat
deriving DecidableEq, Repr

/-- binary32: 1, 8 and 23 bits (10_state.md R33). -/
def binary32 : FpFormat := ⟨8, 23⟩

/-- binary64: 1, 11 and 52 bits (10_state.md R34). -/
def binary64 : FpFormat := ⟨11, 52⟩

/-- The value of a pattern: (-1)^neg * man * 2^exp, an infinity, or a NaN. -/
inductive FpValue where
  | nan
  | inf (neg : Bool)
  | fin (neg : Bool) (man : Nat) (exp : Int)
deriving DecidableEq, Repr

/-- The answers of FP.cmp (41_bru.md R181). -/
inductive FpOrder where
  | lt
  | eq
  | gt
  | unordered
deriving DecidableEq, Repr

/-- The exponent of the lowest mantissa bit of a subnormal number. -/
def FpFormat.minExp (fmt : FpFormat) : Int := 2 - 2 ^ (fmt.expBits - 1) - (fmt.manBits : Int)

/-- The pattern of +infinity, the largest exponent field over a zero mantissa. -/
def FpFormat.infPattern (fmt : FpFormat) : Nat := (2 ^ fmt.expBits - 1) * 2 ^ fmt.manBits

/-- Puts the sign bit on a pattern. -/
def FpFormat.withSign (fmt : FpFormat) (neg : Bool) (magnitude : Nat) : Nat :=
  if neg then 2 ^ (fmt.expBits + fmt.manBits) + magnitude else magnitude

/-- The value of a pattern, denormals too (45_vfpu.md R371). -/
def FpFormat.unpack (fmt : FpFormat) (pattern : Nat) : FpValue :=
  let neg := pattern / 2 ^ (fmt.expBits + fmt.manBits) % 2 == 1
  let e := pattern / 2 ^ fmt.manBits % 2 ^ fmt.expBits
  let m := pattern % 2 ^ fmt.manBits
  if e = 2 ^ fmt.expBits - 1 then (if m = 0 then .inf neg else .nan)
  else if e = 0 then .fin neg m fmt.minExp
  else .fin neg (2 ^ fmt.manBits + m) (fmt.minExp + (e - 1 : Nat))

/-- Whether a magnitude with a discarded part goes up: `low` of `2 ^ shift` is discarded, `odd` is the kept lowest
bit. -/
def roundsUp (mode : Rounding) (neg odd : Bool) (low shift : Nat) : Bool :=
  match mode with
  | .nearestEven => 2 ^ shift < 2 * low || (2 * low == 2 ^ shift && odd)
  | .towardZero => false
  | .towardPositive => low != 0 && !neg
  | .towardNegative => low != 0 && neg

/-- `man / 2 ^ shift` rounded to an integer. -/
def roundShift (mode : Rounding) (neg : Bool) (man shift : Nat) : Nat :=
  let q := man / 2 ^ shift
  if roundsUp mode neg (q % 2 == 1) (man % 2 ^ shift) shift then q + 1 else q

/-- Whether overflow gives an infinity, and not the largest finite number. -/
def overflowsToInf (mode : Rounding) (neg : Bool) : Bool :=
  match mode with
  | .nearestEven => true
  | .towardZero => false
  | .towardPositive => !neg
  | .towardNegative => neg

/-- The pattern of `(-1)^neg * man * 2^exp` rounded to a format. The mantissa is cut at the exponent `low` of the
lowest bit kept; the exponent field and the mantissa field are then one sum, in which a carry goes to the exponent. -/
def FpFormat.round (fmt : FpFormat) (mode : Rounding) (neg : Bool) (man : Nat) (exp : Int) : Nat :=
  if man = 0 then fmt.withSign neg 0
  else
    let low := max (exp + (Nat.log2 man + 1 : Nat) - (fmt.manBits + 1 : Nat)) fmt.minExp
    let kept :=
      if low ≤ exp then man * 2 ^ (exp - low).toNat else roundShift mode neg man (low - exp).toNat
    let magnitude := (low - fmt.minExp).toNat * 2 ^ fmt.manBits + kept
    if magnitude < fmt.infPattern then fmt.withSign neg magnitude
    else if overflowsToInf mode neg then fmt.withSign neg fmt.infPattern
    else fmt.withSign neg (fmt.infPattern - 1)

/-- The pattern of a value in a format; none for a NaN. -/
def FpFormat.pack (fmt : FpFormat) (mode : Rounding) : FpValue → Option Nat
  | .nan => none
  | .inf neg => some (fmt.withSign neg fmt.infPattern)
  | .fin neg man exp => some (fmt.round mode neg man exp)

/-- The other sign. -/
def FpValue.negate : FpValue → FpValue
  | .nan => .nan
  | .inf neg => .inf (!neg)
  | .fin neg man exp => .fin (!neg) man exp

/-- The exact sum. A zero sum of unlike signs is +0, or -0 when rounding toward negative. -/
def FpValue.add (mode : Rounding) : FpValue → FpValue → FpValue
  | .nan, _ => .nan
  | _, .nan => .nan
  | .inf a, .inf b => if a = b then .inf a else .nan
  | .inf a, .fin _ _ _ => .inf a
  | .fin _ _ _, .inf b => .inf b
  | .fin a ma ea, .fin b mb eb =>
    let low := min ea eb
    let na := ma * 2 ^ (ea - low).toNat
    let nb := mb * 2 ^ (eb - low).toNat
    if a = b then .fin a (na + nb) low
    else if na = nb then .fin (mode == .towardNegative) 0 low
    else if nb < na then .fin a (na - nb) low
    else .fin b (nb - na) low

/-- The exact product. -/
def FpValue.mul : FpValue → FpValue → FpValue
  | .nan, _ => .nan
  | _, .nan => .nan
  | .inf a, .inf b => .inf (a != b)
  | .inf a, .fin b mb _ => if mb = 0 then .nan else .inf (a != b)
  | .fin a ma _, .inf b => if ma = 0 then .nan else .inf (a != b)
  | .fin a ma ea, .fin b mb eb => .fin (a != b) (ma * mb) (ea + eb)

/-- The quotient, exact to `digits` bits and with one more bit that says whether anything remains. -/
def FpValue.div (digits : Nat) : FpValue → FpValue → FpValue
  | .nan, _ => .nan
  | _, .nan => .nan
  | .inf _, .inf _ => .nan
  | .inf a, .fin b _ _ => .inf (a != b)
  | .fin a _ _, .inf b => .fin (a != b) 0 0
  | .fin a ma ea, .fin b mb eb =>
    if mb = 0 then (if ma = 0 then .nan else .inf (a != b))
    else
      let k := digits + Nat.log2 mb - Nat.log2 ma
      let n := ma * 2 ^ k
      .fin (a != b) (2 * (n / mb) + (if n % mb = 0 then 0 else 1)) (ea - eb - k - 1)

/-- The integer square root, from bit `i - 1` down. -/
def isqrtFrom (n : Nat) : (i : Nat) → (root : Nat) → Nat
  | 0, r => r
  | i + 1, r =>
    let r' := r + 2 ^ i
    isqrtFrom n i (if r' * r' ≤ n then r' else r)

/-- The integer square root. -/
def isqrt (n : Nat) : Nat := isqrtFrom n (Nat.log2 n / 2 + 1) 0

/-- The square root, exact to `digits` bits and with one more bit that says whether anything remains. A negative
operand gives a NaN, -0 gives -0 (45_vfpu.md R421). -/
def FpValue.sqrt (digits : Nat) : FpValue → FpValue
  | .nan => .nan
  | .inf neg => if neg then .nan else .inf false
  | .fin neg man exp =>
    if man = 0 then .fin neg 0 exp
    else if neg then .nan
    else
      let k := 2 * digits + (exp % 2).toNat
      let n := man * 2 ^ k
      let r := isqrt n
      .fin false (2 * r + (if r * r = n then 0 else 1)) ((exp - k) / 2 - 1)

/-- FP.cmp, the IEEE quiet comparison: -0 and +0 are equal, a NaN is unordered (41_bru.md R181). -/
def FpValue.cmp : FpValue → FpValue → FpOrder
  | .nan, _ => .unordered
  | _, .nan => .unordered
  | .inf a, .inf b => if a = b then .eq else if a then .lt else .gt
  | .inf a, .fin _ _ _ => if a then .lt else .gt
  | .fin _ _ _, .inf b => if b then .gt else .lt
  | .fin a ma ea, .fin b mb eb =>
    let low := min ea eb
    let na : Int := ma * 2 ^ (ea - low).toNat
    let nb : Int := mb * 2 ^ (eb - low).toNat
    let va := if a then -na else na
    let vb := if b then -nb else nb
    if va < vb then .lt else if va = vb then .eq else .gt

/-- The value times 2^q rounded to an integer; none for a NaN or an infinity (45_vfpu.md R404, R412). -/
def FpValue.toInteger (mode : Rounding) (q : Nat) : FpValue → Option Int
  | .nan => none
  | .inf _ => none
  | .fin neg man exp =>
    let e := exp + q
    let m := if 0 ≤ e then man * 2 ^ e.toNat else roundShift mode neg man (-e).toNat
    some (if neg then -(m : Int) else m)

/-! ### Operations on patterns, each rounded once -/

/-- Whether a pattern is a zero or a subnormal number: the exponent field is 0. -/
def FpFormat.isSmall (fmt : FpFormat) (pattern : Nat) : Bool :=
  pattern % 2 ^ (fmt.expBits + fmt.manBits) < 2 ^ fmt.manBits

/-- The pattern, or the zero of its sign for a subnormal number that FP flushes (92_eei_decisions.md D37; log 20). -/
def FpFormat.flushed (fmt : FpFormat) (p : Params) (pattern : Nat) : Nat :=
  match p.subnormals with
  | .keep => pattern
  | .flush =>
    if fmt.isSmall pattern then pattern / 2 ^ (fmt.expBits + fmt.manBits) * 2 ^ (fmt.expBits + fmt.manBits)
    else pattern

/-- The value of an operand. -/
def FpFormat.operand (fmt : FpFormat) (p : Params) (pattern : Nat) : FpValue := fmt.unpack (fmt.flushed p pattern)

/-- The pattern of a result, rounded by FP (45_vfpu.md R371); none for a NaN. -/
def FpFormat.result (fmt : FpFormat) (p : Params) (value : FpValue) : Option Nat :=
  (fmt.pack p.rounding value).map (fmt.flushed p)

/-- FP.add (45_vfpu.md R371). -/
def FpFormat.add (fmt : FpFormat) (p : Params) (a b : Nat) : Option Nat :=
  fmt.result p ((fmt.operand p a).add p.rounding (fmt.operand p b))

/-- FP.sub: the first minus the second (45_vfpu.md R371, R377). -/
def FpFormat.sub (fmt : FpFormat) (p : Params) (a b : Nat) : Option Nat :=
  fmt.result p ((fmt.operand p a).add p.rounding (fmt.operand p b).negate)

/-- FP.mul (45_vfpu.md R371). -/
def FpFormat.mul (fmt : FpFormat) (p : Params) (a b : Nat) : Option Nat :=
  fmt.result p ((fmt.operand p a).mul (fmt.operand p b))

/-- FP.div (45_vfpu.md R371, R420). -/
def FpFormat.div (fmt : FpFormat) (p : Params) (a b : Nat) : Option Nat :=
  fmt.result p ((fmt.operand p a).div (fmt.manBits + 3) (fmt.operand p b))

/-- FP.sqrt (45_vfpu.md R371, R421). -/
def FpFormat.sqrt (fmt : FpFormat) (p : Params) (a : Nat) : Option Nat :=
  fmt.result p ((fmt.operand p a).sqrt (fmt.manBits + 3))

/-- FP.muladd: a * b + c, with one rounding when fused and two when not (45_vfpu.md R373). -/
def FpFormat.muladd (fmt : FpFormat) (p : Params) (a b c : Nat) : Option Nat :=
  if p.fused then
    fmt.result p (((fmt.operand p a).mul (fmt.operand p b)).add p.rounding (fmt.operand p c))
  else
    match fmt.mul p a b with
    | none => none
    | some ab => fmt.add p ab c

/-- FP.cmp on patterns (41_bru.md R181). -/
def FpFormat.cmp (fmt : FpFormat) (p : Params) (a b : Nat) : FpOrder := (fmt.operand p a).cmp (fmt.operand p b)

/-- A pattern of one format converted to another (45_vfpu.md R392, R393). -/
def FpFormat.convert (source target : FpFormat) (p : Params) (a : Nat) : Option Nat :=
  target.result p (source.operand p a)

/-- An integer divided by 2^q, rounded to a format (45_vfpu.md R400, R412). -/
def FpFormat.ofInteger (fmt : FpFormat) (p : Params) (q : Nat) (i : Int) : Nat :=
  fmt.round p.rounding (i < 0) i.natAbs (-(q : Int))

/-- A pattern times 2^q rounded by FP.cvt_round to an N-bit two's-complement number; none for a NaN or a result out of
range (45_vfpu.md R404, R412). -/
def FpFormat.toInteger (fmt : FpFormat) (p : Params) (q n : Nat) (a : Nat) : Option (BitVec n) :=
  match (fmt.operand p a).toInteger p.cvtRound q with
  | none => none
  | some i => if -(2 ^ (n - 1) : Int) ≤ i && i < (2 ^ (n - 1) : Int) then some (BitVec.ofInt n i) else none

/-- The sum of two partial results; none as soon as one is a NaN. -/
def FpFormat.addPartial (fmt : FpFormat) (p : Params) (a b : Option Nat) : Option Nat :=
  a.bind fun x => b.bind fun y => fmt.add p x y

/-- The sum of partial results from the first one on. -/
def FpFormat.sumFrom (fmt : FpFormat) (p : Params) : (sum : Option Nat) → List (Option Nat) → Option Nat
  | sum, [] => sum
  | sum, a :: rest => fmt.sumFrom p (fmt.addPartial p sum a) rest

/-- The sum of the products in the order of FP, each sum rounded (45_vfpu.md R387). -/
def FpFormat.sumProducts (fmt : FpFormat) (p : Params) (products : List (Option Nat)) : Option Nat :=
  let inOrder : List (Option Nat) → Option Nat
    | [] => some 0
    | a :: rest => fmt.sumFrom p a rest
  match p.dotOrder, products with
  | .descending, _ => inOrder products.reverse
  | .pairwise, [a, b, c, d] => fmt.addPartial p (fmt.addPartial p a b) (fmt.addPartial p c d)
  | _, _ => inOrder products

/-- FP.dot over the pairs of lanes: the products are rounded one by one (45_vfpu.md R387). -/
def FpFormat.dot (fmt : FpFormat) (p : Params) (pairs : List (Nat × Nat)) : Option Nat :=
  fmt.sumProducts p (pairs.map fun ab => fmt.mul p ab.1 ab.2)

/-- A binary32 operation on registers. -/
def on32 (r : Option Nat) : Option (BitVec 32) := r.map (BitVec.ofNat 32)

/-- A binary64 operation on registers. -/
def on64 (r : Option Nat) : Option (BitVec 64) := r.map (BitVec.ofNat 64)

end Sys2Proof.Machine
end

