-- ==== Sys2Proof/Machine/Flags.lean ====
section
/-! DEFINITION. The comparison flags: their computation and the ten branch conditions (41_bru.md R180 to R182). -/

namespace Sys2Proof.Machine

open Sys2Proof

/-- The integer compare: Z equal, S less in the signed order, U less in the unsigned order (41_bru.md R180). -/
def State.icmp {n : Nat} (s : State) (left right : BitVec n) : State :=
  s.setFlags (left == right) (left.slt right) (left.ult right)

/-- The floating compare: Z and S from the order, free when unordered; U keeps its value (41_bru.md R181). -/
def State.fcmp (s : State) (order : FpOrder) : State :=
  let s' :=
    match order with
    | .lt => s.setFlags false true s.flagU
    | .eq => s.setFlags true false s.flagU
    | .gt => s.setFlags false false s.flagU
    | .unordered =>
      s.setFlags (Config.draw 1 s.draws == 1#1) (Config.draw 1 (s.draws + 1) == 1#1) s.flagU
  s'.tick 2

/-- BNE: Z = 0 (41_bru.md R182). -/
def State.condNe (s : State) : Bool := !s.flagZ

/-- BEQ: Z = 1 (41_bru.md R182). -/
def State.condEq (s : State) : Bool := s.flagZ

/-- BL: U = 1 (41_bru.md R182). -/
def State.condL (s : State) : Bool := s.flagU

/-- BLE: U = 1 or Z = 1 (41_bru.md R182). -/
def State.condLe (s : State) : Bool := s.flagU || s.flagZ

/-- BG: U = 0 and Z = 0 (41_bru.md R182). -/
def State.condG (s : State) : Bool := !s.flagU && !s.flagZ

/-- BGE: U = 0 (41_bru.md R182). -/
def State.condGe (s : State) : Bool := !s.flagU

/-- BLS: S = 1 (41_bru.md R182). -/
def State.condLs (s : State) : Bool := s.flagS

/-- BLES: S = 1 or Z = 1 (41_bru.md R182). -/
def State.condLes (s : State) : Bool := s.flagS || s.flagZ

/-- BGS: S = 0 and Z = 0 (41_bru.md R182). -/
def State.condGs (s : State) : Bool := !s.flagS && !s.flagZ

/-- BGES: S = 0 (41_bru.md R182). -/
def State.condGes (s : State) : Bool := !s.flagS

end Sys2Proof.Machine
end

