-- ==== Sys2Proof/Machine/Bru.lean ====
section
/-! DEFINITION. The BRU instructions (41_bru.md). -/

namespace Sys2Proof.Machine

open Sys2Proof

/-! ### Shared operations -/

/-- A branch: to the relative target when the condition holds, else to the bundle that follows (41_bru.md R182, R183).
-/
def State.branch (s : State) (cond : Bool) (label : Label) : State :=
  if cond then s.jump (s.relTarget label) else s.advance

/-- A call: remembers the bundle that follows and goes to the target (41_bru.md R206; log 21). -/
def State.callTo (s : State) (target : Addr) : Result State :=
  if s.rs.length < s.params.callDepth then .next ((s.setRs (s.nextPc :: s.rs)).jump target)
  else .refused .callDepthExceeded

/-- A return to the most recent call not yet returned from (41_bru.md R210). -/
def State.returnFrom (s : State) : Result State :=
  match s.rs with
  | [] => .refused .returnWithoutCall
  | a :: rest => .next ((s.setRs rest).jump a)

/-! ### Compares -/

/-- CMP (41_bru.md R186). -/
def execCmp (left right : Reg) (size : Size) (s : State) : Result State :=
  .next (s.icmp (s.operand left size) (s.operand right size)).advance

/-- CMPI (41_bru.md R187). -/
def execCmpi (left : Reg) (imm : BitVec 20) (size : Size) (s : State) : Result State :=
  .next (s.icmp (s.operand left size) (s.immOperand .cmpi imm size)).advance

/-- FCMP (41_bru.md R188). -/
def execFcmp (left right : FReg) (s : State) : Result State :=
  .next (s.fcmp (binary32.cmp s.params (s.getF left).toNat (s.getF right).toNat)).advance

/-- FCMPI (41_bru.md R189). -/
def execFcmpi (left : FReg) (imm : BitVec 21) (s : State) : Result State :=
  .next (s.fcmp (binary32.cmp s.params (s.getF left).toNat (floatImm imm).toNat)).advance

/-- DCMP (41_bru.md R190). -/
def execDcmp (left right : DReg) (s : State) : Result State :=
  .next (s.fcmp (binary64.cmp s.params (s.getD left).toNat (s.getD right).toNat)).advance

/-- DCMPI (41_bru.md R191). -/
def execDcmpi (left : DReg) (imm : BitVec 22) (s : State) : Result State :=
  .next (s.fcmp (binary64.cmp s.params (s.getD left).toNat (doubleImm imm).toNat)).advance

/-! ### Branches -/

/-- BNE (41_bru.md R196). -/
def execBne (label : Label) (s : State) : Result State := .next (s.branch s.condNe label)

/-- BEQ (41_bru.md R197). -/
def execBeq (label : Label) (s : State) : Result State := .next (s.branch s.condEq label)

/-- BL (41_bru.md R198). -/
def execBl (label : Label) (s : State) : Result State := .next (s.branch s.condL label)

/-- BLE (41_bru.md R199). -/
def execBle (label : Label) (s : State) : Result State := .next (s.branch s.condLe label)

/-- BG (41_bru.md R200). -/
def execBg (label : Label) (s : State) : Result State := .next (s.branch s.condG label)

/-- BGE (41_bru.md R201). -/
def execBge (label : Label) (s : State) : Result State := .next (s.branch s.condGe label)

/-- BLS (41_bru.md R202). -/
def execBls (label : Label) (s : State) : Result State := .next (s.branch s.condLs label)

/-- BLES (41_bru.md R203). -/
def execBles (label : Label) (s : State) : Result State := .next (s.branch s.condLes label)

/-- BGS (41_bru.md R204). -/
def execBgs (label : Label) (s : State) : Result State := .next (s.branch s.condGs label)

/-- BGES (41_bru.md R205). -/
def execBges (label : Label) (s : State) : Result State := .next (s.branch s.condGes label)

/-! ### Jumps, calls and return -/

/-- CALL (41_bru.md R206). -/
def execCall (label : Label) (s : State) : Result State := s.callTo (absTarget label)

/-- JMP (41_bru.md R207). -/
def execJmp (label : Label) (s : State) : Result State := .next (s.jump (absTarget label))

/-- CALLR (41_bru.md R208). -/
def execCallr (label : Label) (s : State) : Result State := s.callTo (s.relTarget label)

/-- JMPR (41_bru.md R209). -/
def execJmpr (label : Label) (s : State) : Result State := .next (s.jump (s.relTarget label))

/-- RET (41_bru.md R210). -/
def execRet (s : State) : Result State := s.returnFrom

end Sys2Proof.Machine
end

