-- ==== Sys2Proof/Machine/Lsu.lean ====
section
/-! DEFINITION. The LSU instructions (42_lsu.md). -/

namespace Sys2Proof.Machine

open Sys2Proof

/-! ### Shared operations -/

/-- An integer load with its post-increment (42_lsu.md R232, R257, R258). -/
def State.loadInt (s : State) (sp : Space) (data base : Reg) (addr : Int) (size : Size) (inc : Bool) :
    Result State :=
  andThen (s.load sp addr (Size.bytes size)) fun value =>
    if inc && data == base then .refused .operandConflict
    else
      .next ((s.postInc base inc (Size.bytes size)).setX data
        (extendLoad s.params.loadExt size (s.getX data) value)).advance

/-- An integer store with its post-increment: the old value of the register is stored (42_lsu.md R233, R257, R258). -/
def State.storeInt (s : State) (sp : Space) (data base : Reg) (addr : Int) (size : Size) (inc : Bool) :
    Result State :=
  andThen (s.store sp addr (Size.bytes size) (s.getX data).toNat) fun s' =>
    .next (s'.postInc base inc (Size.bytes size)).advance

/-- A store of a value of `n` bytes with its post-increment (42_lsu.md R242, R246, R250, R257). -/
def State.storeWide (s : State) (sp : Space) (base : Reg) (addr : Int) (n value : Nat) (inc : Bool) : Result State :=
  andThen (s.store sp addr n value) fun s' => .next (s'.postInc base inc n).advance

/-- A vector load with its post-increment (42_lsu.md R241, R256, R257). -/
def State.loadVector (s : State) (sp : Space) (data : VReg) (base : Reg) (addr : Int) (inc : Bool) :
    Result State :=
  andThen (s.load sp addr 16) fun value =>
    .next ((s.postInc base inc 16).setV data (Vec4.ofNat128 value)).advance

/-- A float load with its post-increment (42_lsu.md R245, R256, R257). -/
def State.loadFloat (s : State) (sp : Space) (data : FReg) (base : Reg) (addr : Int) (inc : Bool) : Result State :=
  andThen (s.load sp addr 4) fun value =>
    .next ((s.postInc base inc 4).setF data (BitVec.ofNat 32 value)).advance

/-- A double load with its post-increment (42_lsu.md R249, R256, R257). -/
def State.loadDouble (s : State) (sp : Space) (data : DReg) (base : Reg) (addr : Int) (inc : Bool) :
    Result State :=
  andThen (s.load sp addr 8) fun value =>
    .next ((s.postInc base inc 8).setD data (BitVec.ofNat 64 value)).advance

/-- An access to IOSRAM that writes: the checks, then the event; no byte is kept (42_lsu.md R237, R238). -/
def State.outputIo (s : State) (addr : Int) (n value : Nat) : Result State :=
  andThen (s.checkAccess .iosram addr n) fun a =>
    .next (s.logIo (.output a n (value % 256 ^ n))).advance

/-- The number of bytes OUTI writes: k = 1 + Size (42_lsu.md R238). -/
def outiBytes (size : Size) : Nat := 1 + size.toField

/-! ### DSRAM, integers -/

/-- LDM (42_lsu.md R232). -/
def execLdm (data base : Reg) (imm : BitVec 12) (size : Size) (inc : Bool) (s : State) : Result State :=
  s.loadInt .dsram data base (s.effAddr .ldm base imm) size inc

/-- STM (42_lsu.md R233). -/
def execStm (data base : Reg) (imm : BitVec 12) (size : Size) (inc : Bool) (s : State) : Result State :=
  s.storeInt .dsram data base (s.effAddr .stm base imm) size inc

/-- LDMX: no post-increment (42_lsu.md R234). -/
def execLdmx (data : Reg) (source : Bool) (imm : BitVec 16) (size : Size) (s : State) : Result State :=
  s.loadInt .dsram data (s.lsxBase source) (s.effAddr .ldmx (s.lsxBase source) imm) size false

/-- STMX: no post-increment (42_lsu.md R235). -/
def execStmx (data : Reg) (source : Bool) (imm : BitVec 16) (size : Size) (s : State) : Result State :=
  s.storeInt .dsram data (s.lsxBase source) (s.effAddr .stmx (s.lsxBase source) imm) size false

/-! ### IOSRAM -/

/-- IN: the environment's answer, recorded as an event (42_lsu.md R236). -/
def execInp (data : Reg) (addr : BitVec 8) (size : Size) (s : State) : Result State :=
  andThen (s.checkAccess .iosram (s.immValue .inp addr) (Size.bytes size)) fun a =>
    let value := s.ioAnswer (Size.bytes size)
    .next ((s.ioTaken.logIo (.input a (Size.bytes size) value)).setX data
      (extendLoad s.params.loadExt size (s.getX data) value)).advance

/-- OUT (42_lsu.md R237). -/
def execOut (data : Reg) (addr : BitVec 8) (size : Size) (s : State) : Result State :=
  s.outputIo (s.immValue .out addr) (Size.bytes size) (s.getX data).toNat

/-- OUTI (42_lsu.md R238, 30_encoding.md R104). -/
def execOuti (addr : BitVec 8) (imm : BitVec 16) (size : Size) (s : State) : Result State :=
  s.outputIo (s.immValue .outi addr) (outiBytes size) (s.immExt .outi imm).toNat

/-! ### Cache, integers -/

/-- LDC (42_lsu.md R239). -/
def execLdc (data base : Reg) (imm : BitVec 12) (size : Size) (inc : Bool) (s : State) : Result State :=
  s.loadInt .cache data base (s.effAddr .ldc base imm) size inc

/-- STC (42_lsu.md R240). -/
def execStc (data base : Reg) (imm : BitVec 12) (size : Size) (inc : Bool) (s : State) : Result State :=
  s.storeInt .cache data base (s.effAddr .stc base imm) size inc

/-! ### Vectors -/

/-- LDMV (42_lsu.md R241). -/
def execLdmv (data : VReg) (base : Reg) (imm : BitVec 15) (inc : Bool) (s : State) : Result State :=
  s.loadVector .dsram data base (s.effAddr .ldmv base imm) inc

/-- STMV (42_lsu.md R242). -/
def execStmv (data : VReg) (base : Reg) (imm : BitVec 15) (inc : Bool) (s : State) : Result State :=
  s.storeWide .dsram base (s.effAddr .stmv base imm) 16 (s.getV data).toNat128 inc

/-- LDCV (42_lsu.md R243). -/
def execLdcv (data : VReg) (base : Reg) (imm : BitVec 15) (inc : Bool) (s : State) : Result State :=
  s.loadVector .cache data base (s.effAddr .ldcv base imm) inc

/-- STCV (42_lsu.md R244). -/
def execStcv (data : VReg) (base : Reg) (imm : BitVec 15) (inc : Bool) (s : State) : Result State :=
  s.storeWide .cache base (s.effAddr .stcv base imm) 16 (s.getV data).toNat128 inc

/-! ### Floats -/

/-- LDMF (42_lsu.md R245). -/
def execLdmf (data : FReg) (base : Reg) (imm : BitVec 15) (inc : Bool) (s : State) : Result State :=
  s.loadFloat .dsram data base (s.effAddr .ldmf base imm) inc

/-- STMF (42_lsu.md R246). -/
def execStmf (data : FReg) (base : Reg) (imm : BitVec 15) (inc : Bool) (s : State) : Result State :=
  s.storeWide .dsram base (s.effAddr .stmf base imm) 4 (s.getF data).toNat inc

/-- LDCF (42_lsu.md R247). -/
def execLdcf (data : FReg) (base : Reg) (imm : BitVec 15) (inc : Bool) (s : State) : Result State :=
  s.loadFloat .cache data base (s.effAddr .ldcf base imm) inc

/-- STCF (42_lsu.md R248). -/
def execStcf (data : FReg) (base : Reg) (imm : BitVec 15) (inc : Bool) (s : State) : Result State :=
  s.storeWide .cache base (s.effAddr .stcf base imm) 4 (s.getF data).toNat inc

/-! ### Doubles -/

/-- LDMD (42_lsu.md R249). -/
def execLdmd (data : DReg) (base : Reg) (imm : BitVec 16) (inc : Bool) (s : State) : Result State :=
  s.loadDouble .dsram data base (s.effAddr .ldmd base imm) inc

/-- STMD (42_lsu.md R250). -/
def execStmd (data : DReg) (base : Reg) (imm : BitVec 16) (inc : Bool) (s : State) : Result State :=
  s.storeWide .dsram base (s.effAddr .stmd base imm) 8 (s.getD data).toNat inc

/-- LDCD (42_lsu.md R251). -/
def execLdcd (data : DReg) (base : Reg) (imm : BitVec 16) (inc : Bool) (s : State) : Result State :=
  s.loadDouble .cache data base (s.effAddr .ldcd base imm) inc

/-- STCD (42_lsu.md R252). -/
def execStcd (data : DReg) (base : Reg) (imm : BitVec 16) (inc : Bool) (s : State) : Result State :=
  s.storeWide .cache base (s.effAddr .stcd base imm) 8 (s.getD data).toNat inc

end Sys2Proof.Machine
end

