-- ==== Sys2Proof/Machine/Vfpu.lean ====
section
/-! DEFINITION. The VFPU and VDIV instructions (45_vfpu.md). -/

namespace Sys2Proof.Machine

open Sys2Proof

/-! ### FP operations on register patterns (45_vfpu.md R371) -/

/-- FP.add32. -/
def fpAdd32 (p : Params) (a b : BitVec 32) : Option (BitVec 32) := on32 (binary32.add p a.toNat b.toNat)

/-- FP.sub32. -/
def fpSub32 (p : Params) (a b : BitVec 32) : Option (BitVec 32) := on32 (binary32.sub p a.toNat b.toNat)

/-- FP.mul32. -/
def fpMul32 (p : Params) (a b : BitVec 32) : Option (BitVec 32) := on32 (binary32.mul p a.toNat b.toNat)

/-- FP.muladd32 (a, b, c) = a * b + c (45_vfpu.md R373). -/
def fpMuladd32 (p : Params) (a b c : BitVec 32) : Option (BitVec 32) :=
  on32 (binary32.muladd p a.toNat b.toNat c.toNat)

/-- The pairs of the selected lanes, x first (45_vfpu.md R387). -/
def lanePairs (lanes : Lanes) (a b : Vec4) : List (Nat × Nat) :=
  (List.range (lanes.toField + 1)).map fun k => ((a.lane k).toNat, (b.lane k).toNat)

/-! ### Shared operations: the write of a result -/

/-- Writes the selected lanes of a vector register (45_vfpu.md R372, R374). -/
def State.writeLanes (s : State) (dst : VReg) (lanes : Lanes) (res : Nat → Option (BitVec 32)) : State :=
  (s.tick 4).setLanes dst lanes (mergeLanes s.params.nanResult s.draws lanes (s.getV dst) res)

/-- Writes the selected lanes of the accumulator (45_vfpu.md R372, R374). -/
def State.writeAcc (s : State) (lanes : Lanes) (res : Nat → Option (BitVec 32)) : State :=
  (s.tick 4).setAcc (mergeLanes s.params.nanResult s.draws lanes s.acc res)

/-- Writes a float result, a free quiet NaN for a NaN (45_vfpu.md R371, R374). -/
def State.writeFloat (s : State) (dst : FReg) (res : Option (BitVec 32)) : State :=
  (s.tick 1).setF dst (res.getD (nan32 s.params.nanResult s.draws))

/-- Writes a double result, a free quiet NaN for a NaN (45_vfpu.md R371, R374). -/
def State.writeDouble (s : State) (dst : DReg) (res : Option (BitVec 64)) : State :=
  (s.tick 1).setD dst (res.getD (nan64 s.params.nanResult s.draws))

/-- Fixed point to vector: lane k is the float of `i_k / 2^q` (45_vfpu.md R395, R400). -/
def State.fixToFloat (s : State) (q : Nat) (dst : VReg) (src : Reg) (lanes : Lanes) : State :=
  s.writeLanes dst lanes fun k =>
    some (BitVec.ofNat 32 (binary32.ofInteger s.params q (fixLane (s.getX src) k).toInt))

/-- Vector to fixed point with q fraction bits (45_vfpu.md R395, R404). -/
def State.floatToFix (s : State) (q : Nat) (dst : Reg) (src : VReg) (lanes : Lanes) : State :=
  (s.tick 4).setX dst (mergeFix s.draws lanes (s.getX dst) fun k =>
    binary32.toInteger s.params q 16 ((s.getV src).lane k).toNat)

/-- The source register of FSQRT, under SQRT_OPERAND (45_vfpu.md R419). -/
def sqrtSource {n : Nat} (mode : SqrtOperand) (source1 source2 : Fin n) : Fin n :=
  match mode with
  | .source1 => source1
  | .source2 => source2

/-! ### Vector/vector arithmetic -/

/-- FADD.VV (45_vfpu.md R376). -/
def execFaddVv (dst left right : VReg) (lanes : Lanes) (s : State) : Result State :=
  .next (s.writeLanes dst lanes fun k =>
    fpAdd32 s.params ((s.getV left).lane k) ((s.getV right).lane k)).advance

/-- FSUB.VV (45_vfpu.md R377). -/
def execFsubVv (dst left right : VReg) (lanes : Lanes) (s : State) : Result State :=
  .next (s.writeLanes dst lanes fun k =>
    fpSub32 s.params ((s.getV left).lane k) ((s.getV right).lane k)).advance

/-- FMUL.VV (45_vfpu.md R378). -/
def execFmulVv (dst left right : VReg) (lanes : Lanes) (s : State) : Result State :=
  .next (s.writeLanes dst lanes fun k =>
    fpMul32 s.params ((s.getV left).lane k) ((s.getV right).lane k)).advance

/-- FMULADD.VV: the destination is the addend (45_vfpu.md R379). -/
def execFmuladdVv (dst left right : VReg) (lanes : Lanes) (s : State) : Result State :=
  .next (s.writeLanes dst lanes fun k =>
    fpMuladd32 s.params ((s.getV left).lane k) ((s.getV right).lane k) ((s.getV dst).lane k)).advance

/-! ### Vector/float arithmetic -/

/-- FADD.VF (45_vfpu.md R380). -/
def execFaddVf (dst left : VReg) (right : FReg) (lanes : Lanes) (s : State) : Result State :=
  .next (s.writeLanes dst lanes fun k =>
    fpAdd32 s.params ((s.getV left).lane k) (s.getF right)).advance

/-- FSUB.VF (45_vfpu.md R381). -/
def execFsubVf (dst left : VReg) (right : FReg) (lanes : Lanes) (s : State) : Result State :=
  .next (s.writeLanes dst lanes fun k =>
    fpSub32 s.params ((s.getV left).lane k) (s.getF right)).advance

/-- FMUL.VF (45_vfpu.md R382). -/
def execFmulVf (dst left : VReg) (right : FReg) (lanes : Lanes) (s : State) : Result State :=
  .next (s.writeLanes dst lanes fun k =>
    fpMul32 s.params ((s.getV left).lane k) (s.getF right)).advance

/-- FMULADD.VF: the destination is the addend (45_vfpu.md R383). -/
def execFmuladdVf (dst left : VReg) (right : FReg) (lanes : Lanes) (s : State) : Result State :=
  .next (s.writeLanes dst lanes fun k =>
    fpMuladd32 s.params ((s.getV left).lane k) (s.getF right) ((s.getV dst).lane k)).advance

/-! ### Accumulator and inner product -/

/-- FMULVA (45_vfpu.md R384). -/
def execFmulva (vec : VReg) (float : FReg) (lanes : Lanes) (s : State) : Result State :=
  .next (s.writeAcc lanes fun k => fpMul32 s.params ((s.getV vec).lane k) (s.getF float)).advance

/-- FMULADDVA (45_vfpu.md R385). -/
def execFmuladdva (vec : VReg) (float : FReg) (lanes : Lanes) (s : State) : Result State :=
  .next (s.writeAcc lanes fun k =>
    fpMuladd32 s.params ((s.getV vec).lane k) (s.getF float) (s.acc.lane k)).advance

/-- FMULADDVAO: the accumulator is the addend and is not written (45_vfpu.md R386). -/
def execFmuladdvao (dst vec : VReg) (float : FReg) (lanes : Lanes) (s : State) : Result State :=
  .next (s.writeLanes dst lanes fun k =>
    fpMuladd32 s.params ((s.getV vec).lane k) (s.getF float) (s.acc.lane k)).advance

/-- FIPR: the inner product of the selected lanes (45_vfpu.md R387). -/
def execFipr (dst : FReg) (vec1 vec2 : VReg) (lanes : Lanes) (s : State) : Result State :=
  .next (s.writeFloat dst
    (on32 (binary32.dot s.params (lanePairs lanes (s.getV vec1) (s.getV vec2))))).advance

/-! ### Doubles -/

/-- FADD.D (45_vfpu.md R388). -/
def execFaddD (dst left right : DReg) (s : State) : Result State :=
  .next (s.writeDouble dst (on64 (binary64.add s.params (s.getD left).toNat (s.getD right).toNat))).advance

/-- FSUB.D (45_vfpu.md R389). -/
def execFsubD (dst left right : DReg) (s : State) : Result State :=
  .next (s.writeDouble dst (on64 (binary64.sub s.params (s.getD left).toNat (s.getD right).toNat))).advance

/-- FMUL.D (45_vfpu.md R390). -/
def execFmulD (dst left right : DReg) (s : State) : Result State :=
  .next (s.writeDouble dst (on64 (binary64.mul s.params (s.getD left).toNat (s.getD right).toNat))).advance

/-- FMULADD.D: the destination is the addend (45_vfpu.md R391). -/
def execFmuladdD (dst left right : DReg) (s : State) : Result State :=
  .next (s.writeDouble dst
    (on64 (binary64.muladd s.params (s.getD left).toNat (s.getD right).toNat (s.getD dst).toNat))).advance

/-! ### Conversions -/

/-- CVT.F2D (45_vfpu.md R392). -/
def execCvtF2d (dst : DReg) (src : FReg) (s : State) : Result State :=
  .next (s.writeDouble dst (on64 (binary32.convert binary64 s.params (s.getF src).toNat))).advance

/-- CVT.D2F (45_vfpu.md R393). -/
def execCvtD2f (dst : FReg) (src : DReg) (s : State) : Result State :=
  .next (s.writeFloat dst (on32 (binary64.convert binary32 s.params (s.getD src).toNat))).advance

/-- ITOF0 (45_vfpu.md R400). -/
def execItof0 (dst : VReg) (src : Reg) (lanes : Lanes) (s : State) : Result State :=
  .next (s.fixToFloat 0 dst src lanes).advance

/-- ITOF4 (45_vfpu.md R401). -/
def execItof4 (dst : VReg) (src : Reg) (lanes : Lanes) (s : State) : Result State :=
  .next (s.fixToFloat 4 dst src lanes).advance

/-- ITOF8 (45_vfpu.md R402). -/
def execItof8 (dst : VReg) (src : Reg) (lanes : Lanes) (s : State) : Result State :=
  .next (s.fixToFloat 8 dst src lanes).advance

/-- ITOF15 (45_vfpu.md R403). -/
def execItof15 (dst : VReg) (src : Reg) (lanes : Lanes) (s : State) : Result State :=
  .next (s.fixToFloat 15 dst src lanes).advance

/-- FTOI0 (45_vfpu.md R404). -/
def execFtoi0 (dst : Reg) (src : VReg) (lanes : Lanes) (s : State) : Result State :=
  .next (s.floatToFix 0 dst src lanes).advance

/-- FTOI4 (45_vfpu.md R405). -/
def execFtoi4 (dst : Reg) (src : VReg) (lanes : Lanes) (s : State) : Result State :=
  .next (s.floatToFix 4 dst src lanes).advance

/-- FTOI8 (45_vfpu.md R406). -/
def execFtoi8 (dst : Reg) (src : VReg) (lanes : Lanes) (s : State) : Result State :=
  .next (s.floatToFix 8 dst src lanes).advance

/-- FTOI15 (45_vfpu.md R407). -/
def execFtoi15 (dst : Reg) (src : VReg) (lanes : Lanes) (s : State) : Result State :=
  .next (s.floatToFix 15 dst src lanes).advance

/-- CVT.I2F (45_vfpu.md R408, R412). -/
def execCvtI2f (dst : FReg) (src : Reg) (size : Size) (s : State) : Result State :=
  .next (s.writeFloat dst
    (some (BitVec.ofNat 32 (binary32.ofInteger s.params 0 (s.operand src size).toInt)))).advance

/-- CVT.F2I: written by the rule of narrow results (45_vfpu.md R409, R412). -/
def execCvtF2i (dst : Reg) (src : FReg) (size : Size) (s : State) : Result State :=
  .next (s.writeResult dst size false
    (binary32.toInteger s.params 0 (Size.bits size) (s.getF src).toNat)).advance

/-- CVT.I2D (45_vfpu.md R410, R412). -/
def execCvtI2d (dst : DReg) (src : Reg) (size : Size) (s : State) : Result State :=
  .next (s.writeDouble dst
    (some (BitVec.ofNat 64 (binary64.ofInteger s.params 0 (s.operand src size).toInt)))).advance

/-- CVT.D2I: written by the rule of narrow results (45_vfpu.md R411, R412). -/
def execCvtD2i (dst : Reg) (src : DReg) (size : Size) (s : State) : Result State :=
  .next (s.writeResult dst size false
    (binary64.toInteger s.params 0 (Size.bits size) (s.getD src).toNat)).advance

/-! ### Division and square root -/

/-- FDIV (45_vfpu.md R420). -/
def execFdiv (dst left right : FReg) (s : State) : Result State :=
  .next (s.writeFloat dst (on32 (binary32.div s.params (s.getF left).toNat (s.getF right).toNat))).advance

/-- FSQRT (45_vfpu.md R421, R419). -/
def execFsqrt (dst source1 source2 : FReg) (s : State) : Result State :=
  .next (s.writeFloat dst
    (on32 (binary32.sqrt s.params
      (s.getF (sqrtSource s.params.sqrtOperand source1 source2)).toNat))).advance

/-- DDIV (45_vfpu.md R422). -/
def execDdiv (dst left right : DReg) (s : State) : Result State :=
  .next (s.writeDouble dst (on64 (binary64.div s.params (s.getD left).toNat (s.getD right).toNat))).advance

/-- DSQRT (45_vfpu.md R423, R419). -/
def execDsqrt (dst source1 source2 : DReg) (s : State) : Result State :=
  .next (s.writeDouble dst
    (on64 (binary64.sqrt s.params
      (s.getD (sqrtSource s.params.sqrtOperand source1 source2)).toNat))).advance

/-! ### Immediate loads -/

/-- MOVEFI (45_vfpu.md R424). -/
def execMovefi (dst : FReg) (imm : BitVec 21) (s : State) : Result State :=
  .next (s.setF dst (floatImm imm)).advance

/-- MOVEDI (45_vfpu.md R425). -/
def execMovedi (dst : DReg) (imm : BitVec 22) (s : State) : Result State :=
  .next (s.setD dst (doubleImm imm)).advance

/-- MOVEVI: the same value in every lane (45_vfpu.md R426). -/
def execMovevi (dst : VReg) (imm : BitVec 23) (s : State) : Result State :=
  .next (s.setV dst (Vec4.build fun _ => vectorImm imm)).advance

end Sys2Proof.Machine
end

