-- ==== Sys2Proof/Machine/Dispatch.lean ====
section
/-! DEFINITION. The meaning of every instruction, arm by arm: what a bundle that holds this one instruction beside
no-operations does to the state (40_bundle.md R165, R167, R168; log 11). -/

namespace Sys2Proof.Machine

open Sys2Proof

/-- The meaning of an instruction as the only one of its bundle (log 11). -/
def exec (i : Instr) (s : State) : Host.Outcome State Fault Refusal :=
  match i with
  | .cmp left right size => Sys2Proof.Machine.execCmp left right size s
  | .cmpi left imm size => Sys2Proof.Machine.execCmpi left imm size s
  | .fcmp left right => Sys2Proof.Machine.execFcmp left right s
  | .fcmpi left imm => Sys2Proof.Machine.execFcmpi left imm s
  | .dcmp left right => Sys2Proof.Machine.execDcmp left right s
  | .dcmpi left imm => Sys2Proof.Machine.execDcmpi left imm s
  | .bne label => Sys2Proof.Machine.execBne label s
  | .beq label => Sys2Proof.Machine.execBeq label s
  | .bl label => Sys2Proof.Machine.execBl label s
  | .ble label => Sys2Proof.Machine.execBle label s
  | .bg label => Sys2Proof.Machine.execBg label s
  | .bge label => Sys2Proof.Machine.execBge label s
  | .bls label => Sys2Proof.Machine.execBls label s
  | .bles label => Sys2Proof.Machine.execBles label s
  | .bgs label => Sys2Proof.Machine.execBgs label s
  | .bges label => Sys2Proof.Machine.execBges label s
  | .call label => Sys2Proof.Machine.execCall label s
  | .jmp label => Sys2Proof.Machine.execJmp label s
  | .callr label => Sys2Proof.Machine.execCallr label s
  | .jmpr label => Sys2Proof.Machine.execJmpr label s
  | .ret => Sys2Proof.Machine.execRet s
  | .ldm data base imm size inc => Sys2Proof.Machine.execLdm data base imm size inc s
  | .stm data base imm size inc => Sys2Proof.Machine.execStm data base imm size inc s
  | .ldmx data source imm size => Sys2Proof.Machine.execLdmx data source imm size s
  | .stmx data source imm size => Sys2Proof.Machine.execStmx data source imm size s
  | .inp data addr size => Sys2Proof.Machine.execInp data addr size s
  | .out data addr size => Sys2Proof.Machine.execOut data addr size s
  | .outi addr imm size => Sys2Proof.Machine.execOuti addr imm size s
  | .ldc data base imm size inc => Sys2Proof.Machine.execLdc data base imm size inc s
  | .stc data base imm size inc => Sys2Proof.Machine.execStc data base imm size inc s
  | .ldmv data base imm inc => Sys2Proof.Machine.execLdmv data base imm inc s
  | .stmv data base imm inc => Sys2Proof.Machine.execStmv data base imm inc s
  | .ldcv data base imm inc => Sys2Proof.Machine.execLdcv data base imm inc s
  | .stcv data base imm inc => Sys2Proof.Machine.execStcv data base imm inc s
  | .ldmf data base imm inc => Sys2Proof.Machine.execLdmf data base imm inc s
  | .stmf data base imm inc => Sys2Proof.Machine.execStmf data base imm inc s
  | .ldcf data base imm inc => Sys2Proof.Machine.execLdcf data base imm inc s
  | .stcf data base imm inc => Sys2Proof.Machine.execStcf data base imm inc s
  | .ldmd data base imm inc => Sys2Proof.Machine.execLdmd data base imm inc s
  | .stmd data base imm inc => Sys2Proof.Machine.execStmd data base imm inc s
  | .ldcd data base imm inc => Sys2Proof.Machine.execLdcd data base imm inc s
  | .stcd data base imm inc => Sys2Proof.Machine.execStcd data base imm inc s
  | .xchg => Sys2Proof.Machine.execXchg s
  | .nop fin => Sys2Proof.Machine.execNop fin s
  | .add dst left right size => Sys2Proof.Machine.execAdd dst left right size s
  | .sub dst left right size => Sys2Proof.Machine.execSub dst left right size s
  | .muls dst left right size => Sys2Proof.Machine.execMuls dst left right size s
  | .mulu dst left right size => Sys2Proof.Machine.execMulu dst left right size s
  | .divs dst left right size => Sys2Proof.Machine.execDivs dst left right size s
  | .divu dst left right size => Sys2Proof.Machine.execDivu dst left right size s
  | .and dst left right size => Sys2Proof.Machine.execAnd dst left right size s
  | .or dst left right size => Sys2Proof.Machine.execOr dst left right size s
  | .xor dst left right size => Sys2Proof.Machine.execXor dst left right size s
  | .asl dst left right size => Sys2Proof.Machine.execAsl dst left right size s
  | .lsl dst left right size => Sys2Proof.Machine.execLsl dst left right size s
  | .asr dst left right size => Sys2Proof.Machine.execAsr dst left right size s
  | .lsr dst left right size => Sys2Proof.Machine.execLsr dst left right size s
  | .addi dst left imm size => Sys2Proof.Machine.execAddi dst left imm size s
  | .subi dst left imm size => Sys2Proof.Machine.execSubi dst left imm size s
  | .mulsi dst left imm size => Sys2Proof.Machine.execMulsi dst left imm size s
  | .mului dst left imm size => Sys2Proof.Machine.execMului dst left imm size s
  | .divsi dst left imm size => Sys2Proof.Machine.execDivsi dst left imm size s
  | .divui dst left imm size => Sys2Proof.Machine.execDivui dst left imm size s
  | .andi dst left imm size => Sys2Proof.Machine.execAndi dst left imm size s
  | .ori dst left imm size => Sys2Proof.Machine.execOri dst left imm size s
  | .xori dst left imm size => Sys2Proof.Machine.execXori dst left imm size s
  | .asli dst left imm size => Sys2Proof.Machine.execAsli dst left imm size s
  | .lsli dst left imm size => Sys2Proof.Machine.execLsli dst left imm size s
  | .asri dst left imm size => Sys2Proof.Machine.execAsri dst left imm size s
  | .lsri dst left imm size => Sys2Proof.Machine.execLsri dst left imm size s
  | .addq dst imm size => Sys2Proof.Machine.execAddq dst imm size s
  | .subq dst imm size => Sys2Proof.Machine.execSubq dst imm size s
  | .mulsq dst imm size => Sys2Proof.Machine.execMulsq dst imm size s
  | .muluq dst imm size => Sys2Proof.Machine.execMuluq dst imm size s
  | .divsq dst imm size => Sys2Proof.Machine.execDivsq dst imm size s
  | .divuq dst imm size => Sys2Proof.Machine.execDivuq dst imm size s
  | .andq dst imm size => Sys2Proof.Machine.execAndq dst imm size s
  | .orq dst imm size => Sys2Proof.Machine.execOrq dst imm size s
  | .xorq dst imm size => Sys2Proof.Machine.execXorq dst imm size s
  | .aslq dst imm size => Sys2Proof.Machine.execAslq dst imm size s
  | .lslq dst imm size => Sys2Proof.Machine.execLslq dst imm size s
  | .asrq dst imm size => Sys2Proof.Machine.execAsrq dst imm size s
  | .lsrq dst imm size => Sys2Proof.Machine.execLsrq dst imm size s
  | .movei dst imm => Sys2Proof.Machine.execMovei dst imm s
  | .lddma ramReg dsReg ramBase dsBase long => Sys2Proof.Machine.execLddma ramReg dsReg ramBase dsBase long s
  | .stdma ramReg dsReg ramBase dsBase long => Sys2Proof.Machine.execStdma ramReg dsReg ramBase dsBase long s
  | .lddmar dsReg ramReg blocks => Sys2Proof.Machine.execLddmar dsReg ramReg blocks s
  | .stdmar dsReg ramReg blocks => Sys2Proof.Machine.execStdmar dsReg ramReg blocks s
  | .dmair isReg ramReg blocks => Sys2Proof.Machine.execDmair isReg ramReg blocks s
  | .wait => Sys2Proof.Machine.execWait s
  | .faddVv dst left right lanes => Sys2Proof.Machine.execFaddVv dst left right lanes s
  | .fsubVv dst left right lanes => Sys2Proof.Machine.execFsubVv dst left right lanes s
  | .fmulVv dst left right lanes => Sys2Proof.Machine.execFmulVv dst left right lanes s
  | .fmuladdVv dst left right lanes => Sys2Proof.Machine.execFmuladdVv dst left right lanes s
  | .faddVf dst left right lanes => Sys2Proof.Machine.execFaddVf dst left right lanes s
  | .fsubVf dst left right lanes => Sys2Proof.Machine.execFsubVf dst left right lanes s
  | .fmulVf dst left right lanes => Sys2Proof.Machine.execFmulVf dst left right lanes s
  | .fmuladdVf dst left right lanes => Sys2Proof.Machine.execFmuladdVf dst left right lanes s
  | .fmulva vec float lanes => Sys2Proof.Machine.execFmulva vec float lanes s
  | .fmuladdva vec float lanes => Sys2Proof.Machine.execFmuladdva vec float lanes s
  | .fmuladdvao dst vec float lanes => Sys2Proof.Machine.execFmuladdvao dst vec float lanes s
  | .fipr dst vec1 vec2 lanes => Sys2Proof.Machine.execFipr dst vec1 vec2 lanes s
  | .faddD dst left right => Sys2Proof.Machine.execFaddD dst left right s
  | .fsubD dst left right => Sys2Proof.Machine.execFsubD dst left right s
  | .fmulD dst left right => Sys2Proof.Machine.execFmulD dst left right s
  | .fmuladdD dst left right => Sys2Proof.Machine.execFmuladdD dst left right s
  | .cvtF2d dst src => Sys2Proof.Machine.execCvtF2d dst src s
  | .cvtD2f dst src => Sys2Proof.Machine.execCvtD2f dst src s
  | .itof0 dst src lanes => Sys2Proof.Machine.execItof0 dst src lanes s
  | .itof4 dst src lanes => Sys2Proof.Machine.execItof4 dst src lanes s
  | .itof8 dst src lanes => Sys2Proof.Machine.execItof8 dst src lanes s
  | .itof15 dst src lanes => Sys2Proof.Machine.execItof15 dst src lanes s
  | .ftoi0 dst src lanes => Sys2Proof.Machine.execFtoi0 dst src lanes s
  | .ftoi4 dst src lanes => Sys2Proof.Machine.execFtoi4 dst src lanes s
  | .ftoi8 dst src lanes => Sys2Proof.Machine.execFtoi8 dst src lanes s
  | .ftoi15 dst src lanes => Sys2Proof.Machine.execFtoi15 dst src lanes s
  | .cvtI2f dst src size => Sys2Proof.Machine.execCvtI2f dst src size s
  | .cvtF2i dst src size => Sys2Proof.Machine.execCvtF2i dst src size s
  | .cvtI2d dst src size => Sys2Proof.Machine.execCvtI2d dst src size s
  | .cvtD2i dst src size => Sys2Proof.Machine.execCvtD2i dst src size s
  | .fdiv dst left right => Sys2Proof.Machine.execFdiv dst left right s
  | .fsqrt dst source1 source2 => Sys2Proof.Machine.execFsqrt dst source1 source2 s
  | .ddiv dst left right => Sys2Proof.Machine.execDdiv dst left right s
  | .dsqrt dst source1 source2 => Sys2Proof.Machine.execDsqrt dst source1 source2 s
  | .movefi dst imm => Sys2Proof.Machine.execMovefi dst imm s
  | .movedi dst imm => Sys2Proof.Machine.execMovedi dst imm s
  | .movevi dst imm => Sys2Proof.Machine.execMovevi dst imm s

end Sys2Proof.Machine
end

