-- ==== Sys2Proof/Machine/Engine.lean ====
section
/-! DEFINITION. The transfer engine (40_bundle.md R160, R171). -/

namespace Sys2Proof.Machine

open Sys2Proof

/-- The offsets of a transfer that are not copied yet. -/
def Transfer.pending (t : Transfer) : List Nat := (List.range t.len).filter fun k => !t.copied.contains k

/-- An offset added to a rising list of offsets. -/
def insertOffset (k : Nat) : List Nat → List Nat
  | [] => [k]
  | j :: rest => if k < j then k :: j :: rest else if k = j then j :: rest else j :: insertOffset k rest

/-- The transfer after one more offset is copied. -/
def Transfer.withCopied (t : Transfer) (k : Nat) : Transfer := { t with copied := insertOffset k t.copied }

/-- Whether every byte of a transfer is copied (40_bundle.md R171). -/
def Transfer.isDone (t : Transfer) : Bool := t.pending.isEmpty

/-- Which byte the engine copies next: the choice at the head of the script, 0 where it has none (log 9). -/
def State.pick (s : State) : Nat :=
  match s.script with
  | .copy n :: _ => n
  | _ => 0

/-- The script after the engine's turn. -/
def State.pickTaken (s : State) : State :=
  match s.script with
  | .copy _ :: rest => { s with script := rest }
  | _ => s

/-- Copies the byte at offset `k` of the `j`-th transfer in flight, and takes the transfer off DMAQ when it was the
last (40_bundle.md R171). A source byte that holds no value is a fault of the engine's step (44_agu.md R353). -/
def State.copyByte (s : State) (j : Nat) (t : Transfer) (k : Nat) : Result State :=
  match s.byteAt t.src (t.srcAddr + k) with
  | none => .fault (.uninitialisedRead t.src (t.srcAddr + k))
  | some b =>
    let s' := s.setMem t.dst ((s.mem t.dst).set (t.dstAddr + k) b)
    let t' := t.withCopied k
    if t'.isDone then
      .next ((s'.setDmaq (s'.dmaq.eraseIdx j)).setLanded (s'.landed ++ [{ t with copied := [] }]))
    else .next (s'.setDmaq (s'.dmaq.set j t'))

/-- One step of the transfer engine: any transfer in flight, any byte of it not yet copied (40_bundle.md R171). The
pick selects transfer `pick mod count` and its pending offset number `(pick / count) mod pending` (log 9). -/
def State.engineMove (s : State) : Result State :=
  let s' := s.pickTaken
  let j := s.pick % s.dmaq.length
  match s'.dmaq[j]? with
  | none => .next s'
  | some t =>
    match t.pending[s.pick / s.dmaq.length % t.pending.length]? with
    | none => .next ((s'.setDmaq (s'.dmaq.eraseIdx j)).setLanded (s'.landed ++ [{ t with copied := [] }]))
    | some k => s'.copyByte j t k

/-- Whether the script gives the engine the next turn (log 9). -/
def State.engineTurn (s : State) : Bool :=
  match s.script with
  | .copy _ :: _ => true
  | _ => false

/-- The script after the core's turn. -/
def State.turnTaken (s : State) : State :=
  match s.script with
  | .core :: rest => { s with script := rest }
  | _ => s

end Sys2Proof.Machine
end

