-- ==== Sys2Proof/Machine/Footprint.lean ====
section
/-! DEFINITION. What an instruction reads and writes, for the conflict rule of a bundle (40_bundle.md R166) and for
LATENCY (70_reset_and_hazards.md R483). -/

namespace Sys2Proof.Machine

open Sys2Proof

/-- Whether two locations share a bit, under FPR_OVERLAY (10_state.md R37): the natural packing puts lane k of v b at
word 4 b + k, d b at words 2 b and 2 b + 1, f b at word b. Under the OPEN setting a lane counts as all the float and
double registers under its register, which its write makes free (40_bundle.md R166; log 3, log 18). -/
def Loc.overlaps (mode : FprOverlay) : Loc → Loc → Bool
  | .x a, .x b => a == b
  | .f a, .f b => a == b
  | .d a, .d b => a == b
  | .v a j, .v b k => a == b && j == k
  | .f a, .d b | .d b, .f a => mode != .separate && FReg.double a == b
  | .f a, .v b k | .v b k, .f a =>
    match mode with
    | .unstated => FReg.vector a == b
    | .separate => false
    | .shared _ => a == VReg.float b k
  | .d a, .v b k | .v b k, .d a =>
    match mode with
    | .unstated => DReg.vector a == b
    | .separate => false
    | .shared _ => a == FReg.double (VReg.float b k)
  | .acc j, .acc k => j == k
  | .flagZ, .flagZ | .flagS, .flagS | .flagU, .flagU => true
  | .mem sp a n, .mem sp' b m => sp == sp' && rangesOverlap a n b m
  | _, _ => false

/-- The selected lanes of a vector register (45_vfpu.md R372). -/
def lanesOf (r : VReg) (lanes : Lanes) : List Loc := (Lanes.selected lanes).map (.v r)

/-- The selected lanes of the accumulator (45_vfpu.md R372). -/
def accLanes (lanes : Lanes) : List Loc := (Lanes.selected lanes).map .acc

/-- The address register, where an access increments it (42_lsu.md R257). -/
def incremented (base : Reg) (inc : Bool) : List Loc := if inc then [.x base] else []

/-- What an instruction reads (the Pseudocode entries of 41_bru.md to 45_vfpu.md; the flags of a branch are those of
41_bru.md R182, unselected lanes are not read, 45_vfpu.md R372). DESIGN CHOICE (unsafe, log 23): a narrow write that
keeps the upper bits of its destination (NARROW_UPPER or LOAD_EXT = preserve) does not read it; the spec is silent. -/
def Instr.reads (i : Instr) (s : State) : List Loc :=
  match i with
  | .cmp left right _ => [.x left, .x right]
  | .cmpi left _ _ => [.x left]
  | .fcmp left right => [.f left, .f right]
  | .fcmpi left _ => [.f left]
  | .dcmp left right => [.d left, .d right]
  | .dcmpi left _ => [.d left]
  | .bne _ | .beq _ => [.flagZ]
  | .bl _ | .bge _ => [.flagU]
  | .ble _ | .bg _ => [.flagU, .flagZ]
  | .bls _ | .bges _ => [.flagS]
  | .bles _ | .bgs _ => [.flagS, .flagZ]
  | .call _ | .jmp _ | .callr _ | .jmpr _ | .ret => []
  | .ldm _ base imm size _ => [.x base, .mem .dsram (s.effAddr .ldm base imm).toNat (Size.bytes size)]
  | .stm data base _ _ _ => [.x data, .x base]
  | .ldmx _ source imm size =>
    [.x (s.lsxBase source), .mem .dsram (s.effAddr .ldmx (s.lsxBase source) imm).toNat (Size.bytes size)]
  | .stmx data source _ _ => [.x data, .x (s.lsxBase source)]
  | .inp _ addr size => [.mem .iosram (s.immValue .inp addr).toNat (Size.bytes size)]
  | .out data _ _ => [.x data]
  | .outi _ _ _ => []
  | .ldc _ base imm size _ => [.x base, .mem .cache (s.effAddr .ldc base imm).toNat (Size.bytes size)]
  | .stc data base _ _ _ => [.x data, .x base]
  | .ldmv _ base imm _ => [.x base, .mem .dsram (s.effAddr .ldmv base imm).toNat 16]
  | .stmv data base _ _ => lanesOf data .xyzw ++ [.x base]
  | .ldcv _ base imm _ => [.x base, .mem .cache (s.effAddr .ldcv base imm).toNat 16]
  | .stcv data base _ _ => lanesOf data .xyzw ++ [.x base]
  | .ldmf _ base imm _ => [.x base, .mem .dsram (s.effAddr .ldmf base imm).toNat 4]
  | .stmf data base _ _ => [.f data, .x base]
  | .ldcf _ base imm _ => [.x base, .mem .cache (s.effAddr .ldcf base imm).toNat 4]
  | .stcf data base _ _ => [.f data, .x base]
  | .ldmd _ base imm _ => [.x base, .mem .dsram (s.effAddr .ldmd base imm).toNat 8]
  | .stmd data base _ _ => [.d data, .x base]
  | .ldcd _ base imm _ => [.x base, .mem .cache (s.effAddr .ldcd base imm).toNat 8]
  | .stcd data base _ _ => [.d data, .x base]
  | .xchg | .nop _ => []
  | .add _ left right _ | .sub _ left right _ | .muls _ left right _ | .mulu _ left right _
  | .divs _ left right _ | .divu _ left right _ | .and _ left right _ | .or _ left right _
  | .xor _ left right _ | .asl _ left right _ | .lsl _ left right _ | .asr _ left right _
  | .lsr _ left right _ => [.x left, .x right]
  | .addi _ left _ _ | .subi _ left _ _ | .mulsi _ left _ _ | .mului _ left _ _ | .divsi _ left _ _
  | .divui _ left _ _ | .andi _ left _ _ | .ori _ left _ _ | .xori _ left _ _ | .asli _ left _ _
  | .lsli _ left _ _ | .asri _ left _ _ | .lsri _ left _ _ => [.x left]
  | .addq dst _ _ | .subq dst _ _ | .mulsq dst _ _ | .muluq dst _ _ | .divsq dst _ _ | .divuq dst _ _
  | .andq dst _ _ | .orq dst _ _ | .xorq dst _ _ | .aslq dst _ _ | .lslq dst _ _ | .asrq dst _ _
  | .lsrq dst _ _ => [.x dst]
  | .movei _ _ => []
  | .lddma ramReg dsReg _ _ _ | .stdma ramReg dsReg _ _ _ => [.x ramReg, .x dsReg]
  | .lddmar other ramReg _ | .stdmar other ramReg _ | .dmair other ramReg _ => [.x other, .x ramReg]
  | .wait => []
  | .faddVv _ left right lanes | .fsubVv _ left right lanes | .fmulVv _ left right lanes =>
    lanesOf left lanes ++ lanesOf right lanes
  | .fmuladdVv dst left right lanes => lanesOf left lanes ++ lanesOf right lanes ++ lanesOf dst lanes
  | .faddVf _ left right lanes | .fsubVf _ left right lanes | .fmulVf _ left right lanes =>
    .f right :: lanesOf left lanes
  | .fmuladdVf dst left right lanes => .f right :: (lanesOf left lanes ++ lanesOf dst lanes)
  | .fmulva vec float lanes => .f float :: lanesOf vec lanes
  | .fmuladdva vec float lanes | .fmuladdvao _ vec float lanes => .f float :: (lanesOf vec lanes ++ accLanes lanes)
  | .fipr _ vec1 vec2 lanes => lanesOf vec1 lanes ++ lanesOf vec2 lanes
  | .faddD _ left right | .fsubD _ left right | .fmulD _ left right => [.d left, .d right]
  | .fmuladdD dst left right => [.d left, .d right, .d dst]
  | .cvtF2d _ src => [.f src]
  | .cvtD2f _ src => [.d src]
  | .itof0 _ src _ | .itof4 _ src _ | .itof8 _ src _ | .itof15 _ src _ => [.x src]
  | .ftoi0 _ src lanes | .ftoi4 _ src lanes | .ftoi8 _ src lanes | .ftoi15 _ src lanes => lanesOf src lanes
  | .cvtI2f _ src _ => [.x src]
  | .cvtF2i _ src _ => [.f src]
  | .cvtI2d _ src _ => [.x src]
  | .cvtD2i _ src _ => [.d src]
  | .fdiv _ left right => [.f left, .f right]
  | .fsqrt _ source1 source2 => [.f (sqrtSource s.params.sqrtOperand source1 source2)]
  | .ddiv _ left right => [.d left, .d right]
  | .dsqrt _ source1 source2 => [.d (sqrtSource s.params.sqrtOperand source1 source2)]
  | .movefi _ _ | .movedi _ _ | .movevi _ _ => []

/-- What an instruction writes (the Pseudocode entries of 41_bru.md to 45_vfpu.md). The bytes of a transfer are written
after the bundle, by the engine (20_memory.md R76). -/
def Instr.writes (i : Instr) (s : State) : List Loc :=
  match i with
  | .cmp _ _ _ | .cmpi _ _ _ => [.flagZ, .flagS, .flagU]
  | .fcmp _ _ | .fcmpi _ _ | .dcmp _ _ | .dcmpi _ _ => [.flagZ, .flagS]
  | .bne _ | .beq _ | .bl _ | .ble _ | .bg _ | .bge _ | .bls _ | .bles _ | .bgs _ | .bges _ => []
  | .call _ | .jmp _ | .callr _ | .jmpr _ | .ret => []
  | .ldm data base _ _ inc | .ldc data base _ _ inc => .x data :: incremented base inc
  | .stm _ base imm size inc => .mem .dsram (s.effAddr .stm base imm).toNat (Size.bytes size) :: incremented base inc
  | .ldmx data _ _ _ => [.x data]
  | .stmx _ source imm size => [.mem .dsram (s.effAddr .stmx (s.lsxBase source) imm).toNat (Size.bytes size)]
  | .inp data _ _ => [.x data]
  | .out _ addr size => [.mem .iosram (s.immValue .out addr).toNat (Size.bytes size)]
  | .outi addr _ size => [.mem .iosram (s.immValue .outi addr).toNat (outiBytes size)]
  | .stc _ base imm size inc => .mem .cache (s.effAddr .stc base imm).toNat (Size.bytes size) :: incremented base inc
  | .ldmv data base _ inc | .ldcv data base _ inc => lanesOf data .xyzw ++ incremented base inc
  | .stmv _ base imm inc => .mem .dsram (s.effAddr .stmv base imm).toNat 16 :: incremented base inc
  | .stcv _ base imm inc => .mem .cache (s.effAddr .stcv base imm).toNat 16 :: incremented base inc
  | .ldmf data base _ inc | .ldcf data base _ inc => .f data :: incremented base inc
  | .stmf _ base imm inc => .mem .dsram (s.effAddr .stmf base imm).toNat 4 :: incremented base inc
  | .stcf _ base imm inc => .mem .cache (s.effAddr .stcf base imm).toNat 4 :: incremented base inc
  | .ldmd data base _ inc | .ldcd data base _ inc => .d data :: incremented base inc
  | .stmd _ base imm inc => .mem .dsram (s.effAddr .stmd base imm).toNat 8 :: incremented base inc
  | .stcd _ base imm inc => .mem .cache (s.effAddr .stcd base imm).toNat 8 :: incremented base inc
  | .xchg | .nop _ => []
  | .add dst _ _ _ | .sub dst _ _ _ | .muls dst _ _ _ | .mulu dst _ _ _ | .divs dst _ _ _ | .divu dst _ _ _
  | .and dst _ _ _ | .or dst _ _ _ | .xor dst _ _ _ | .asl dst _ _ _ | .lsl dst _ _ _ | .asr dst _ _ _
  | .lsr dst _ _ _ => [.x dst]
  | .addi dst _ _ _ | .subi dst _ _ _ | .mulsi dst _ _ _ | .mului dst _ _ _ | .divsi dst _ _ _
  | .divui dst _ _ _ | .andi dst _ _ _ | .ori dst _ _ _ | .xori dst _ _ _ | .asli dst _ _ _ | .lsli dst _ _ _
  | .asri dst _ _ _ | .lsri dst _ _ _ => [.x dst]
  | .addq dst _ _ | .subq dst _ _ | .mulsq dst _ _ | .muluq dst _ _ | .divsq dst _ _ | .divuq dst _ _
  | .andq dst _ _ | .orq dst _ _ | .xorq dst _ _ | .aslq dst _ _ | .lslq dst _ _ | .asrq dst _ _
  | .lsrq dst _ _ => [.x dst]
  | .movei dst _ => [.x dst]
  | .lddma _ _ _ _ _ | .stdma _ _ _ _ _ | .lddmar _ _ _ | .stdmar _ _ _ | .dmair _ _ _ | .wait => []
  | .faddVv dst _ _ lanes | .fsubVv dst _ _ lanes | .fmulVv dst _ _ lanes | .fmuladdVv dst _ _ lanes
  | .faddVf dst _ _ lanes | .fsubVf dst _ _ lanes | .fmulVf dst _ _ lanes | .fmuladdVf dst _ _ lanes
  | .fmuladdvao dst _ _ lanes => lanesOf dst lanes
  | .fmulva _ _ lanes | .fmuladdva _ _ lanes => accLanes lanes
  | .fipr dst _ _ _ => [.f dst]
  | .faddD dst _ _ | .fsubD dst _ _ | .fmulD dst _ _ | .fmuladdD dst _ _ => [.d dst]
  | .cvtF2d dst _ => [.d dst]
  | .cvtD2f dst _ => [.f dst]
  | .itof0 dst _ lanes | .itof4 dst _ lanes | .itof8 dst _ lanes | .itof15 dst _ lanes => lanesOf dst lanes
  | .ftoi0 dst _ _ | .ftoi4 dst _ _ | .ftoi8 dst _ _ | .ftoi15 dst _ _ => [.x dst]
  | .cvtI2f dst _ _ => [.f dst]
  | .cvtF2i dst _ _ => [.x dst]
  | .cvtI2d dst _ _ => [.d dst]
  | .cvtD2i dst _ _ => [.x dst]
  | .fdiv dst _ _ | .fsqrt dst _ _ => [.f dst]
  | .ddiv dst _ _ | .dsqrt dst _ _ => [.d dst]
  | .movefi dst _ => [.f dst]
  | .movedi dst _ => [.d dst]
  | .movevi dst _ => lanesOf dst .xyzw

/-- The bytes that the transfer of an instruction will read, none for a Size of 0 (44_agu.md R351 to R356). -/
def Instr.transferSource (i : Instr) (s : State) : List Loc :=
  match i with
  | .lddma ramReg _ ramBase _ long => [.mem .ram (s.directAddr .lddma ramReg ramBase).toNat (directLen long)]
  | .stdma _ dsReg _ dsBase long => [.mem .dsram (s.directAddr .stdma dsReg dsBase).toNat (directLen long)]
  | .lddmar _ ramReg blocks => [.mem .ram (s.listAddr ramReg) (s.listLen .lddmar blocks)]
  | .stdmar dsReg _ blocks => [.mem .dsram (s.listAddr dsReg) (s.listLen .stdmar blocks)]
  | .dmair _ ramReg blocks => [.mem .ram (s.listAddr ramReg) (s.listLen .dmair blocks)]
  | _ => []

/-- Whether some location of one list overlaps one of the other. -/
def locsOverlap (mode : FprOverlay) (a b : List Loc) : Bool := a.any fun l => b.any fun m => l.overlaps mode m

/-- Whether two opcodes of a bundle conflict: (a) a common written location, (b) one writes what the other reads,
(c) both are AGU instructions (40_bundle.md R166). -/
def opcodesConflict (s : State) (i j : Instr) : Bool :=
  locsOverlap s.params.fprOverlay (Instr.writes i s) (Instr.writes j s)
    || locsOverlap s.params.fprOverlay (Instr.writes i s) (Instr.reads j s)
    || locsOverlap s.params.fprOverlay (Instr.reads i s) (Instr.writes j s)
    || (i.issueClass == .agu && j.issueClass == .agu)

/-- Whether some pair of distinct opcodes of a bundle conflicts (40_bundle.md R166). -/
def bundleConflicts (s : State) : List Instr → Bool
  | [] => false
  | i :: rest => rest.any (opcodesConflict s i) || bundleConflicts s rest

/-- Whether an opcode reads a destination that must not be read yet: as an operand, or as the source of a transfer
(70_reset_and_hazards.md R483; log 23). Under the OPEN setting of FPR_OVERLAY a register counts as the words of the
natural packing. -/
def Instr.readsUnsettled (i : Instr) (s : State) : Bool :=
  locsOverlap s.params.fprOverlay.packed (Instr.reads i s ++ Instr.transferSource i s)
    (s.unsettled.map fun u => u.loc)

/-- The destinations of an opcode that later bundles must not read, and for how long (70_reset_and_hazards.md R483). -/
def Instr.unsettledBy (i : Instr) (s : State) : List Unsettled :=
  match s.params.latencyOf i.mnemonic with
  | 0 => []
  | k + 1 => (Instr.writes i s).map fun l => ⟨l, k + 1⟩

/-- Whether an opcode is a control transfer that is taken (40_bundle.md R168). -/
def Instr.takesTransfer (i : Instr) (s : State) : Bool :=
  match i with
  | .bne _ => s.condNe
  | .beq _ => s.condEq
  | .bl _ => s.condL
  | .ble _ => s.condLe
  | .bg _ => s.condG
  | .bge _ => s.condGe
  | .bls _ => s.condLs
  | .bles _ => s.condLes
  | .bgs _ => s.condGs
  | .bges _ => s.condGes
  | .call _ | .jmp _ | .callr _ | .jmpr _ | .ret => true
  | _ => false

/-- Whether an opcode ends the program: NOP with End = 1 (43_alu.md R283). -/
def Instr.endsRun : Instr → Bool
  | .nop true => true
  | _ => false

end Sys2Proof.Machine
end

