-- ==== Sys2Proof/Machine/Bundle.lean ====
section
/-! DEFINITION. The step of the core: fetch, decode, the checks of a bundle, and its commit (40_bundle.md R161 to R175,
60_exceptions.md R446). -/

namespace Sys2Proof.Machine

open Sys2Proof

/-! ### Fetch and decode -/

/-- The opcodes of the bytes of a bundle, four bytes to a word (20_memory.md R60). -/
def wordsOfBytes (count : Nat) (bs : List Byte) : List Word :=
  (List.range count).map fun k => wordOfBytes ((bs.drop (4 * k)).take 4)

/-- Whether the bundle at pc lies where a DMAIR writes that no WAIT has ordered (20_memory.md R79; log 10). -/
def State.fetchRaces (s : State) : Bool := s.readRaces .isram s.pc.toNat (4 * s.width)

/-- The fetch of the bundle at pc (40_bundle.md R161): its range, then its bytes. Where one holds no value there is no
bundle to go on with, and a race with a DMAIR is reported first (20_memory.md R79; log 13). -/
def State.fetch (s : State) : Result (List Word) :=
  let n := 4 * s.width
  if s.params.isramSize < s.pc.toNat + n then .fault (.fetchFault s.pc)
  else
    match s.isram.readBytes s.pc.toNat n with
    | .ok bs => .next (wordsOfBytes s.width bs)
    | .error e => if s.fetchRaces then .refused .fetchUnderDma else .fault (.uninitialisedRead .isram e)

/-- Decodes words from slot `k` on; the lowest Illegal one stops the step (40_bundle.md R162, R164). -/
def decodeFrom (pc : Addr) : (k : Nat) → List Word → Result (List Instr)
  | _, [] => .next []
  | k, w :: rest =>
    match decode (Fin.ofNat 4 k) w with
    | .error _ => .fault (.illegalOpcode pc k w)
    | .ok i => andThen (decodeFrom pc (k + 1) rest) fun is => .next (i :: is)

/-- Fetches and decodes the bundle at pc. -/
def State.fetchBundle (s : State) : Result (List Instr) :=
  andThen s.fetch fun words => decodeFrom s.pc 0 words

/-! ### The checks of a bundle (60_exceptions.md R446) -/

/-- Whether a bundle holds a WAIT, which stands in slot 1 (40_bundle.md R163, R173). -/
def hasWait (is : List Instr) : Bool := is.contains .wait

/-- The state the opcodes of a bundle read (40_bundle.md R165). The bundle of a WAIT runs when every earlier transfer
is in place, so none is left to race with (40_bundle.md R173; log 10). -/
def State.readState (s : State) (is : List Instr) : State := if hasWait is then s.setLanded [] else s

/-- Whether an opcode's outcome is of the group that is reported first: a fault, or a race of its access
(60_exceptions.md R446 (4)). -/
def stopsFirst (r : Result State) : Bool :=
  match r with
  | .next _ => false
  | .fault _ => true
  | .refused e => e == .dmaRace

/-- Whether an opcode's outcome is a stop. -/
def stopsAtAll (r : Result State) : Bool :=
  match r with
  | .next _ => false
  | .fault _ => true
  | .refused _ => true

/-- The slot whose opcode stops the bundle: the lowest with a fault or a race, else the lowest with another refusal
(40_bundle.md R167, 60_exceptions.md R446). -/
def stoppingSlot (s : State) (is : List Instr) : Option Nat :=
  match is.findIdx? fun i => stopsFirst (exec i s) with
  | some k => some k
  | none => is.findIdx? fun i => stopsAtAll (exec i s)

/-- The commit of the opcodes of slots 1 to 3: each has the pc of the bundle, and the next pc is slot 0's
(40_bundle.md R167, R168; log 11). -/
def commitRest (pc : Addr) : List Instr → State → Result State
  | [], s => .next s
  | i :: rest, s => andThen (exec i (s.setPc pc)) fun s' => commitRest pc rest (s'.setPc s.pc)

/-- The commit of a bundle without conflict, slot 0 first (40_bundle.md R166, R167; log 11). -/
def commitBundle (s : State) : List Instr → Result State
  | [] => .next s
  | i :: rest => andThen (exec i s) fun s' => commitRest s.pc rest s'

/-- Runs a decoded bundle that is not held (40_bundle.md R165 to R170): the checks, the last of them that of LATENCY
(70_reset_and_hazards.md R483; log 23), the commit, and the end of the bundle. -/
def runBundle (s : State) (is : List Instr) : Result State :=
  let s' := s.readState is
  match (stoppingSlot s' is).bind fun k => is[k]? with
  | some i => exec i s'
  | none =>
    if bundleConflicts s' is then .refused .bundleConflict
    else if is.any Instr.endsRun && is.head?.any (fun i => Instr.takesTransfer i s') then
      .refused .endWithTransfer
    else if is.any fun i => Instr.readsUnsettled i s' then .refused .latencyHazard
    else andThen (commitBundle s' is) fun t => .next (t.endBundle (is.flatMap fun i => Instr.unsettledBy i s'))

/-- Whether a WAIT holds the bundle (40_bundle.md R173). -/
def State.holds (s : State) (is : List Instr) : Bool := hasWait is && !s.dmaq.isEmpty

/-- Runs a bundle that is not held. One that was fetched under a DMAIR is refused, after the faults and races of its
opcodes and before every other refusal (60_exceptions.md R446 (4), (5); log 13). -/
def runFetched (s : State) (is : List Instr) : Result State :=
  let r := runBundle s is
  if s.fetchRaces && !stopsFirst r then .refused .fetchUnderDma else r

/-- The core's turn: fetch, decode, the hold, and the bundle (60_exceptions.md R446). While a WAIT holds the core, the
engine moves: nothing else can (40_bundle.md R173; log 12). -/
def State.coreMove (s : State) : Result State :=
  andThen s.fetchBundle fun is => if s.holds is then s.engineMove else runFetched s is

/-! ### Where a fault is recorded -/

/-- The slot of a fault of a running machine's step (60_exceptions.md R441): the Illegal word's, or that of the opcode
that stops the bundle; none for the fetch and for the engine. -/
def State.faultSlot (s : State) (e : Fault) : Option Nat :=
  match e with
  | .illegalOpcode _ k _ => some k
  | .fetchFault _ | .ended => none
  | .addressFault _ _ _ | .misalignedAccess _ _ _ | .uninitialisedRead _ _ =>
    if !s.dmaq.isEmpty && s.engineTurn then none
    else
      match s.turnTaken.fetchBundle with
      | .next is => if s.turnTaken.holds is then none else stoppingSlot (s.turnTaken.readState is) is
      | .fault _ => none
      | .refused _ => none

end Sys2Proof.Machine
end

