-- ==== Sys2Proof/Machine/Step.lean ====
section
/-! DEFINITION. The step of the machine (40_bundle.md R160, R171 to R175) and the placing of one instruction for the
fetch (70_reset_and_hazards.md R474). -/

namespace Sys2Proof.Machine

open Sys2Proof

/-- A step of a running machine. With no transfer in flight the core moves; otherwise the script says which agent does
(log 9). -/
def stepRunning (s : State) : Result State :=
  if s.dmaq.isEmpty then s.coreMove
  else if s.engineTurn then s.engineMove
  else s.turnTaken.coreMove

/-- A step of a machine whose core takes no further step: the engine completes the transfers, then the reason stands
(40_bundle.md R170, R174, 60_exceptions.md R441). -/
def stepStopped (s : State) (stop : Result State) : Result State :=
  if s.dmaq.isEmpty then stop else s.engineMove

/-- One step of the machine: of the core or of the transfer engine (40_bundle.md R160). A fault or a refusal leaves the
state as it was; `stepState` records it (60_exceptions.md R441). A run that is over has no step (log 14). -/
def step (s : State) : Host.Outcome State Fault Refusal :=
  match s.status with
  | .running => stepRunning s
  | .ended => stepStopped s (.fault .ended)
  | .faulted e _ _ => stepStopped s (.fault e)
  | .refused e => stepStopped s (.refused e)

/-- The state after a step, with a fault or a refusal of a running machine recorded in the status (10_state.md R44,
60_exceptions.md R440, R441). -/
def stepState (s : State) : State :=
  match step s with
  | .next s' => s'
  | .fault e => if s.status = .running then s.takeFault e (s.faultSlot e) else s
  | .refused e => if s.status = .running then s.takeRefusal e else s

/-- The words of a bundle of `count` opcodes with one word at a slot and NOPs beside it (43_alu.md R283). -/
def bundleAround (count slot : Nat) (w : Word) : List Word :=
  (List.range count).map fun k => if k = slot then w else 0x62#32

/-- The state with an instruction of the opcode table placed at pc, at the slot `tableSlot` reads it at, beside NOPs:
the part of the launch that places a program (70_reset_and_hazards.md R474; log 16). -/
def State.withFetchWord (s : State) (nbits w : Nat) : State :=
  let word : Word := BitVec.ofNat 32 (w % 2 ^ nbits)
  let slot := (tableSlot word).elim 0 fun k => k.val
  let bytes := (bundleAround s.width slot word).flatMap bytesOfWord
  { s with isram := s.isram.writeBytes s.pc.toNat bytes }

end Sys2Proof.Machine
end

