-- ==== Sys2Proof/Safety.lean ====
section
/-! DEFINITION. The terms in which claims about the machine are stated: the invariants, the places an instruction may
change, results written in numbers, and the numbers that floating-point patterns stand for. -/

namespace Sys2Proof.Machine

open Sys2Proof

/-! ### The invariants of a run -/

/-- Offsets that rise strictly, from `lo` on and below `bound`. -/
def risingBelow (bound : Nat) : (lo : Nat) → List Nat → Bool
  | _, [] => true
  | lo, k :: rest => lo ≤ k && k < bound && risingBelow bound (k + 1) rest

/-- What every started transfer is (44_agu.md R351, R359; 20_memory.md R65): between two different spaces of which none
is IOSRAM, not empty, both ends multiples of 32 and inside their spaces, the length a multiple of 32. -/
def Transfer.sound (t : Transfer) (s : State) : Bool :=
  t.src != t.dst && t.src != .iosram && t.dst != .iosram && 0 < t.len && t.len % 32 == 0
    && t.srcAddr % 32 == 0 && t.dstAddr % 32 == 0
    && t.srcAddr + t.len ≤ s.sizeOf t.src && t.dstAddr + t.len ≤ s.sizeOf t.dst

/-- What a transfer in flight is besides: its copied offsets are offsets of it, and some byte is not copied yet
(40_bundle.md R171). -/
def Transfer.inFlight (t : Transfer) : Bool := risingBelow t.len 0 t.copied && !t.pending.isEmpty

/-- Whether a memory is in canonical form and inside its space. -/
def State.memSound (s : State) (sp : Space) : Bool := (s.mem sp).wf && (s.mem sp).fits (s.sizeOf sp)

/-- What the targets still to come are under BRANCH_DELAY (70_reset_and_hazards.md R481): multiples of 8, each due
after another bundle, the last within BRANCH_DELAY bundles. -/
def State.redirectsSound (s : State) : Bool :=
  s.redirects.all (fun r => r.target.toNat % 8 == 0)
    && risingBelow (s.params.branchDelay + 1) 1 (s.redirects.map fun r => r.bundles)

/-- What the destinations still to settle are under LATENCY (70_reset_and_hazards.md R483): each for at least one more
bundle, and for no longer than some entry of LATENCY says. -/
def State.unsettledSound (s : State) : Bool :=
  s.unsettled.all fun u => 1 ≤ u.bundles && s.params.latency.any fun e => u.bundles ≤ e.2

/-- The word of the double registers that the natural packing puts at word `n` of the one file (10_state.md R37). -/
def State.doubleWord (s : State) (lowFirst : Bool) (n : FReg) : BitVec 32 :=
  (s.getD (FReg.double n)).extractLsb' (if (n.val % 2 = 0) = (lowFirst = true) then 0 else 32) 32

/-- The lane of the vector registers that the natural packing puts at word `n` of the one file (10_state.md R37). -/
def State.vectorWord (s : State) (n : FReg) : BitVec 32 := (s.getV (FReg.vector n)).lane (n.val % 4)

/-- The three views hold the same words where FPR_OVERLAY says that they are views of one file (10_state.md R37;
log 3). -/
def State.viewsAgree (s : State) : Bool :=
  match s.params.fprOverlay with
  | .unstated | .separate => true
  | .shared lowFirst =>
    (List.finRange 128).all fun n => s.doubleWord lowFirst n == s.getF n && s.vectorWord n == s.getF n

/-- The invariant of the machine: parameters as the spec asks, pc, every target to come and every return address
multiples of 8 (10_state.md R25, R42), no more return addresses than CALL_DEPTH, memories in canonical form inside
their spaces, transfers as R351 starts them, the windows of BRANCH_DELAY and LATENCY within their lengths, and the
float, double and vector registers one file where FPR_OVERLAY says so. -/
def State.invariant (s : State) : Bool :=
  s.params.valid && s.pc.toNat % 8 == 0 && s.rs.all (fun a => a.toNat % 8 == 0) && s.rs.length ≤ s.params.callDepth
    && s.memSound .isram && s.memSound .dsram && s.memSound .cache && s.memSound .ram
    && s.dmaq.all (fun t => t.sound s && t.inFlight) && s.landed.all (fun t => t.sound s)
    && s.redirectsSound && s.unsettledSound && s.viewsAgree

/-- Whether two transfers race: one writes what the other reads or writes (20_memory.md R76). -/
def Transfer.races (t u : Transfer) : Bool :=
  t.writes u.dst u.dstAddr u.len || t.reads u.dst u.dstAddr u.len || t.writes u.src u.srcAddr u.len

/-- No two transfers of a list race. -/
def noRaces : List Transfer → Bool
  | [] => true
  | t :: rest => rest.all (fun u => !t.races u) && noRaces rest

/-- No two transfers that no WAIT has ordered race (20_memory.md R76). -/
def State.raceFree (s : State) : Bool := noRaces s.unordered

/-- The number of bytes the engine has still to copy. -/
def State.remaining (s : State) : Nat := (s.dmaq.map fun t => t.pending.length).sum

/-- Every byte that a transfer in flight reads holds a value. -/
def State.sourcesHeld (s : State) : Prop :=
  ∀ t ∈ s.dmaq, ∀ k, k < t.len → (s.byteAt t.src (t.srcAddr + k)).isSome = true

/-- `n` steps of the machine, as far as none stops. -/
def runSteps : Nat → State → Result State
  | 0, s => .next s
  | n + 1, s => andThen (step s) (runSteps n)

/-! ### The program counter -/

/-- The address of the bundle that follows, 8 or 16 bytes on (10_state.md R26). -/
def State.seqPc (s : State) : Addr := if s.xchg then s.pc + 16 else s.pc + 8

/-- A relative target in numbers: the base of REL_BASE plus eight times the signed label, modulo 2^64
(41_bru.md R183). -/
def State.branchTarget (s : State) (label : Label) : Addr :=
  let base := match s.params.relBase with
    | .current => s.pc
    | .next => s.seqPc
  BitVec.ofInt 64 ((base.toNat : Int) + label.toInt * 8)

/-- The state after a taken control transfer to `target`: there at once when BRANCH_DELAY is 0, and else on to the
bundle that follows, with the target due at the end of the BRANCH_DELAY-th bundle after this one (40_bundle.md R168,
70_reset_and_hazards.md R481). -/
def State.goTo (s : State) (target : Addr) : State :=
  if s.params.branchDelay = 0 then { s with pc := target }
  else { s with pc := s.seqPc, redirects := s.redirects ++ [⟨s.params.branchDelay + 1, target⟩] }

/-! ### The end of a bundle -/

/-- The state when a bundle ends: the first target that is due becomes pc, every other window of BRANCH_DELAY and of
LATENCY is one bundle shorter, and the destinations `new` begin to settle (70_reset_and_hazards.md R481, R483). -/
def State.afterBundle (s : State) (new : List Unsettled) : State :=
  { s with
    pc := match s.redirects.filter fun r => r.bundles ≤ 1 with
      | [] => s.pc
      | r :: _ => r.target
    redirects := s.redirects.filterMap fun r => if r.bundles ≤ 1 then none else some ⟨r.bundles - 1, r.target⟩
    unsettled := (s.unsettled.filterMap fun u => if u.bundles ≤ 1 then none else some ⟨u.loc, u.bundles - 1⟩) ++ new }

/-- The destinations of an opcode that begin to settle at the end of its bundle: all it writes, for as many bundles as
LATENCY gives its instruction, and none where that is 0 (70_reset_and_hazards.md R483). -/
def Instr.settling (i : Instr) (s : State) : List Unsettled :=
  (Instr.writes i s).filterMap fun l =>
    if s.params.latencyOf i.mnemonic = 0 then none else some ⟨l, s.params.latencyOf i.mnemonic⟩

/-- Whether an opcode reads, as an operand or as the source of its transfer, what must not be read yet
(70_reset_and_hazards.md R483). -/
def Instr.readsEarly (i : Instr) (s : State) : Prop :=
  ∃ l ∈ Instr.reads i s ++ Instr.transferSource i s, ∃ u ∈ s.unsettled,
    l.overlaps s.params.fprOverlay.packed u.loc = true

/-- The state that the opcodes of a bundle read: a bundle with a WAIT runs with every transfer ordered
(40_bundle.md R165, R173). -/
def State.bundleReads (s : State) (is : List Instr) : State :=
  { s with landed := if Instr.wait ∈ is then [] else s.landed }

/-- The states after each of the opcodes of a bundle alone on the state `s`, each with its free values and IOSRAM
answers numbered on from the one before, beginning at those of `env`. -/
def aloneFrom (s : State) : (env : State) → List Instr → Result (List State)
  | _, [] => .next []
  | env, i :: rest =>
    andThen (exec i { s with draws := env.draws, ioInputs := env.ioInputs, ioLog := env.ioLog }) fun t =>
      andThen (aloneFrom s t rest) fun ts => .next (t :: ts)

/-- Runs bundles one after another, as far as none stops. -/
def runBundles : List (List Instr) → State → Result State
  | [], s => .next s
  | is :: rest, s => andThen (runBundle s is) (runBundles rest)

/-- Whether an opcode can transfer control (41_bru.md R196 to R210). -/
def Instr.isTransfer : Instr → Bool
  | .bne _ | .beq _ | .bl _ | .ble _ | .bg _ | .bge _ | .bls _ | .bles _ | .bgs _ | .bges _ => true
  | .call _ | .jmp _ | .callr _ | .jmpr _ | .ret => true
  | _ => false

/-! ### Integer operands and results in numbers -/

/-- An integer immediate: a signed number for the instructions that IMM_SIGNED names, an unsigned one for the others
(30_encoding.md R104). -/
def State.immOf {n : Nat} (s : State) (m : Mnemonic) (value : BitVec n) : Int :=
  if m ∈ s.params.immSigned ∧ 2 ^ n ≤ 2 * value.toNat then (value.toNat : Int) - 2 ^ n else value.toNat

/-- The N low bits of a register as an unsigned number (43_alu.md R284). -/
def State.natOf (s : State) (r : Reg) (size : Size) : Nat := (s.getX r).toNat % 2 ^ Size.bits size

/-- The two's-complement reading of an unsigned number of N bits (00_scope.md R9). -/
def signedOf (size : Size) (n : Nat) : Int :=
  if n < 2 ^ (Size.bits size - 1) then (n : Int) else (n : Int) - 2 ^ Size.bits size

/-- The N low bits of an integer as an unsigned number. -/
def natOfInt (size : Size) (i : Int) : Nat := (i % 2 ^ Size.bits size).toNat

/-- `new` holds the N-bit result and, above it, what NARROW_UPPER says (43_alu.md R285). -/
def NarrowWritten (mode : NarrowUpper) (marked : Bool) (size : Size) (old new : XWord) (res : Nat) : Prop :=
  new.toNat % 2 ^ Size.bits size = res ∧
    match mode with
    | .zero => new.toNat < 2 ^ Size.bits size
    | .sextMarked =>
      if marked then ∀ k, Size.bits size ≤ k → k < 64 → new.getLsbD k = new.getLsbD (Size.bits size - 1)
      else new.toNat < 2 ^ Size.bits size
    | .preserve => ∀ k, Size.bits size ≤ k → new.getLsbD k = old.getLsbD k
    | .draw => True

/-- Only general register `dst` differs, and pc moved on. -/
def OnlyX (s t : State) (dst : Reg) : Prop :=
  t = { s with pc := s.seqPc, x := t.x, draws := t.draws } ∧ ∀ r, r ≠ dst → t.getX r = s.getX r

/-- The instruction completes, writes the N-bit result to `dst` and changes nothing else (43_alu.md R284, R285). -/
def Yields (i : Instr) (s : State) (dst : Reg) (marked : Bool) (size : Size) (res : Nat) : Prop :=
  ∃ t, exec i s = .next t ∧ OnlyX s t dst ∧
    NarrowWritten s.params.narrowUpper marked size (s.getX dst) (t.getX dst) res

/-- The instruction completes with a result that the spec leaves free (43_alu.md R288, R289). -/
def YieldsFree (i : Instr) (s : State) (dst : Reg) (marked : Bool) (size : Size) : Prop :=
  ∃ res, res < 2 ^ Size.bits size ∧ Yields i s dst marked size res

/-! ### Memory accesses -/

/-- The access lies in its space and is aligned as MISALIGNED asks (20_memory.md R63, R66, R72). -/
def State.accessOk (s : State) (sp : Space) (a : Int) (n : Nat) : Prop :=
  0 ≤ a ∧ a < 2 ^ 64 ∧ a + n ≤ s.sizeOf sp ∧ (s.params.misaligned = .fault → a % n = 0)

/-- The `n` bytes from an address on are the ones `b` lists. -/
def State.holdsBytes (s : State) (sp : Space) (a n : Nat) (b : Nat → Byte) : Prop :=
  ∀ k, k < n → s.byteAt sp (a + k) = some (b k)

/-- Byte `k` of a register value, the least significant first (20_memory.md R61). -/
def byteOf {n : Nat} (value : BitVec n) (k : Nat) : Byte := value.extractLsb' (8 * k) 8

/-- Byte `k` of the memory image of a vector: lane x at the lowest address (42_lsu.md R256). -/
def vectorByte (a : Vec4) (k : Nat) : Byte := byteOf (a.lane (k / 4)) (k % 4)

/-- The n bytes from an address on are those `b` lists, and every other byte of the space is as before. -/
def BytesStored (s t : State) (sp : Space) (a n : Nat) (b : Nat → Byte) : Prop :=
  t.holdsBytes sp a n b ∧ ∀ c, c < a ∨ a + n ≤ c → t.byteAt sp c = s.byteAt sp c

/-- The address register after an access of n bytes: plus POSTINC when it increments (42_lsu.md R257). -/
def State.baseAfter (s : State) (base : Reg) (inc : Bool) (n : Nat) : XWord :=
  if inc then s.getX base + BitVec.ofNat 64 (s.params.postInc.getD n) else s.getX base

/-- Only the address register differs among the general registers, and by the post-increment. -/
def OnlyBase (s t : State) (base : Reg) (inc : Bool) (n : Nat) : Prop :=
  t.getX base = s.baseAfter base inc n ∧ ∀ r, r ≠ base → t.getX r = s.getX r

/-- `new` holds the n bytes loaded and, above them, what LOAD_EXT says (20_memory.md R70). -/
def LoadWritten (mode : LoadExt) (n : Nat) (old new : XWord) (b : Nat → Byte) : Prop :=
  (∀ k, k < n → byteOf new k = b k) ∧
    match mode with
    | .zero => new.toNat < 256 ^ n
    | .sign => ∀ k, 8 * n ≤ k → k < 64 → new.getLsbD k = new.getLsbD (8 * n - 1)
    | .preserve => ∀ k, 8 * n ≤ k → new.getLsbD k = old.getLsbD k

/-- The load completes when its access is in range, aligned, free of races and of bytes that hold a value, and when it
does not increment its own data register: it writes the data register and the address register and nothing else
(42_lsu.md R232, R257, R258). -/
def LoadsX (i : Instr) (s : State) (sp : Space) (data base : Reg) (a : Int) (n : Nat)
    (inc : Bool) : Prop :=
  ∀ b, s.accessOk sp a n → s.readRaces sp a.toNat n = false → s.holdsBytes sp a.toNat n b → (inc = true → data ≠ base) →
    ∃ t, exec i s = .next t ∧ t = { s with pc := s.seqPc, x := t.x } ∧
      LoadWritten s.params.loadExt n (s.getX data) (t.getX data) b ∧
      (data ≠ base → t.getX base = s.baseAfter base inc n) ∧
      ∀ r, r ≠ data → r ≠ base → t.getX r = s.getX r

/-- The load of a float, double or vector register completes likewise; `only` names the registers it may change and
`image` the bytes of the register it writes (42_lsu.md R256, R257). -/
def LoadsFpr (i : Instr) (s : State) (sp : Space) (base : Reg) (a : Int) (n : Nat) (inc : Bool)
    (only : State → State → Prop) (image : State → Nat → Byte) : Prop :=
  ∀ b, s.accessOk sp a n → s.readRaces sp a.toNat n = false → s.holdsBytes sp a.toNat n b →
    ∃ t, exec i s = .next t ∧
      t = { s with pc := s.seqPc, x := t.x, f := t.f, d := t.d, v := t.v, draws := t.draws } ∧ only s t ∧
      OnlyBase s t base inc n ∧ ∀ k, k < n → image t k = b k

/-- The store completes when its access is in range, aligned and free of races: it writes its bytes at the address `a`
and the address register, and nothing else (42_lsu.md R233, R257). -/
def Stores (i : Instr) (s : State) (sp : Space) (base : Reg) (a : Int) (n : Nat) (inc : Bool)
    (b : Nat → Byte) : Prop :=
  s.accessOk sp a n → s.writeRaces sp a.toNat n = false →
    ∃ t, exec i s = .next t ∧ BytesStored s t sp a.toNat n b ∧ OnlyBase s t base inc n ∧
      t = (if sp = .cache then { s with pc := s.seqPc, x := t.x, cache := t.cache }
        else { s with pc := s.seqPc, x := t.x, dsram := t.dsram })

/-- The access to a memory space an instruction makes: space, address, bytes, and whether it writes (20_memory.md R67,
R72). -/
def Instr.access (i : Instr) (s : State) : Option (Space × Int × Nat × Bool) :=
  let ea {n : Nat} (base : Reg) (value : BitVec n) : Int := (s.getX base).toNat + s.immOf i.mnemonic value
  match i with
  | .ldm _ base imm size _ => some (.dsram, ea base imm, Size.bytes size, false)
  | .stm _ base imm size _ => some (.dsram, ea base imm, Size.bytes size, true)
  | .ldmx _ source imm size => some (.dsram, ea (s.lsxBase source) imm, Size.bytes size, false)
  | .stmx _ source imm size => some (.dsram, ea (s.lsxBase source) imm, Size.bytes size, true)
  | .ldc _ base imm size _ => some (.cache, ea base imm, Size.bytes size, false)
  | .stc _ base imm size _ => some (.cache, ea base imm, Size.bytes size, true)
  | .ldmv _ base imm _ => some (.dsram, ea base imm, 16, false)
  | .stmv _ base imm _ => some (.dsram, ea base imm, 16, true)
  | .ldcv _ base imm _ => some (.cache, ea base imm, 16, false)
  | .stcv _ base imm _ => some (.cache, ea base imm, 16, true)
  | .ldmf _ base imm _ => some (.dsram, ea base imm, 4, false)
  | .stmf _ base imm _ => some (.dsram, ea base imm, 4, true)
  | .ldcf _ base imm _ => some (.cache, ea base imm, 4, false)
  | .stcf _ base imm _ => some (.cache, ea base imm, 4, true)
  | .ldmd _ base imm _ => some (.dsram, ea base imm, 8, false)
  | .stmd _ base imm _ => some (.dsram, ea base imm, 8, true)
  | .ldcd _ base imm _ => some (.cache, ea base imm, 8, false)
  | .stcd _ base imm _ => some (.cache, ea base imm, 8, true)
  | .inp _ addr size => some (.iosram, s.immOf i.mnemonic addr, Size.bytes size, false)
  | .out _ addr size => some (.iosram, s.immOf i.mnemonic addr, Size.bytes size, true)
  | .outi addr _ size => some (.iosram, s.immOf i.mnemonic addr, 1 + size.toField, true)
  | _ => none

/-! ### Transfers -/

/-- What an instruction asks to transfer: source, its address, destination, its address, length, in unbounded
integers (44_agu.md R351). -/
structure Request where
  src : Space
  srcAddr : Int
  dst : Space
  dstAddr : Int
  len : Nat
deriving DecidableEq, Repr

/-- The record of a request of which no byte is copied yet (40_bundle.md R171). -/
def Request.record (q : Request) : Transfer := ⟨q.src, q.srcAddr.toNat, q.dst, q.dstAddr.toNat, q.len, []⟩

/-- Whether the source range lies in its space. -/
def Request.sourceIn (q : Request) (s : State) : Prop := 0 ≤ q.srcAddr ∧ q.srcAddr + q.len ≤ s.sizeOf q.src

/-- Whether the destination range lies in its space. -/
def Request.destinationIn (q : Request) (s : State) : Prop := 0 ≤ q.dstAddr ∧ q.dstAddr + q.len ≤ s.sizeOf q.dst

/-- The transfer an instruction asks for (44_agu.md R352 to R356, sections 2 and 3); a size that IMM_SIGNED makes
negative transfers nothing (log 22). -/
def Instr.transfer (i : Instr) (s : State) : Option Request :=
  let based (r : Reg) (base : BitVec 12) : Int := 32 * ((s.getX r).toNat + s.immOf i.mnemonic base)
  let direct (r : Reg) : Int := 32 * (s.getX r).toNat
  let blocksOf (size : BitVec 12) : Nat := 32 * (s.immOf i.mnemonic size).toNat
  match i with
  | .lddma ramReg dsReg ramBase dsBase long =>
    some ⟨.ram, based ramReg ramBase, .dsram, based dsReg dsBase, if long then 64 else 32⟩
  | .stdma ramReg dsReg ramBase dsBase long =>
    some ⟨.dsram, based dsReg dsBase, .ram, based ramReg ramBase, if long then 64 else 32⟩
  | .lddmar dsReg ramReg blocks => some ⟨.ram, direct ramReg, .dsram, direct dsReg, blocksOf blocks⟩
  | .stdmar dsReg ramReg blocks => some ⟨.dsram, direct dsReg, .ram, direct ramReg, blocksOf blocks⟩
  | .dmair isReg ramReg blocks => some ⟨.ram, direct ramReg, .isram, direct isReg, blocksOf blocks⟩
  | _ => none

/-- Whether a new transfer races one in flight, or one that is copied and that no WAIT has ordered (44_agu.md R351 (3),
20_memory.md R76; log 10). -/
def State.newRaces (s : State) (t : Transfer) : Bool := s.unordered.any fun u => u.races t

/-! ### Floating-point registers -/

/-- Among the float, double and vector registers only `dst` differs, and of the other two views what FPR_OVERLAY says:
under the OPEN setting the registers that overlap `dst` in the natural packing are free, with separate files nothing,
with one file the word that `dst` is, which reads as `dst` (10_state.md R37; log 3). -/
def OnlyFloat (s t : State) (dst : FReg) : Prop :=
  (∀ r : FReg, r ≠ dst → t.getF r = s.getF r) ∧
    match s.params.fprOverlay with
    | .unstated =>
      (∀ r : DReg, r.val ≠ dst.val / 2 → t.getD r = s.getD r) ∧ ∀ r : VReg, r.val ≠ dst.val / 4 → t.getV r = s.getV r
    | .separate => t.d = s.d ∧ t.v = s.v
    | .shared lowFirst => ∀ n : FReg,
      t.doubleWord lowFirst n = (if n = dst then t.getF n else s.doubleWord lowFirst n) ∧
        t.vectorWord n = if n = dst then t.getF n else s.vectorWord n

/-- As `OnlyFloat`, for a double register, which is two words. -/
def OnlyDouble (s t : State) (dst : DReg) : Prop :=
  (∀ r : DReg, r ≠ dst → t.getD r = s.getD r) ∧
    match s.params.fprOverlay with
    | .unstated =>
      (∀ r : FReg, r.val / 2 ≠ dst.val → t.getF r = s.getF r) ∧ ∀ r : VReg, r.val ≠ dst.val / 2 → t.getV r = s.getV r
    | .separate => t.f = s.f ∧ t.v = s.v
    | .shared lowFirst => ∀ n : FReg,
      t.getF n = (if n.val / 2 = dst.val then t.doubleWord lowFirst n else s.getF n) ∧
        t.vectorWord n = if n.val / 2 = dst.val then t.doubleWord lowFirst n else s.vectorWord n

/-- As `OnlyFloat`, for the lanes 0 to Size of a vector register, a word each. -/
def OnlyVector (s t : State) (dst : VReg) (lanes : Lanes) : Prop :=
  (∀ r : VReg, r ≠ dst → t.getV r = s.getV r) ∧
    match s.params.fprOverlay with
    | .unstated =>
      (∀ r : FReg, r.val / 4 ≠ dst.val → t.getF r = s.getF r) ∧ ∀ r : DReg, r.val / 2 ≠ dst.val → t.getD r = s.getD r
    | .separate => t.f = s.f ∧ t.d = s.d
    | .shared lowFirst => ∀ n : FReg,
      let written := n.val / 4 = dst.val ∧ n.val % 4 ≤ lanes.toField
      t.getF n = (if written then t.vectorWord n else s.getF n) ∧
        t.doubleWord lowFirst n = if written then t.vectorWord n else s.doubleWord lowFirst n

/-- Nothing but float, double and vector registers differs, and pc moved on. -/
def OnlyFpr (s t : State) : Prop :=
  t = { s with pc := s.seqPc, f := t.f, d := t.d, v := t.v, draws := t.draws }

/-- A quiet NaN of binary32: exponent and the top mantissa bit all ones. -/
def isQuietNaN32 (p : BitVec 32) : Prop := p &&& 0x7FC00000#32 = 0x7FC00000#32

/-- A quiet NaN of binary64. -/
def isQuietNaN64 (p : BitVec 64) : Prop := p &&& 0x7FF8000000000000#64 = 0x7FF8000000000000#64

/-- The pattern is the result, some quiet NaN for a NaN, or the one that FP answers (45_vfpu.md R371; log 20). -/
def IsResult32 (mode : NanResult) (res : Option (BitVec 32)) (p : BitVec 32) : Prop :=
  match res, mode with
  | some r, _ => p = r
  | none, .drawn => isQuietNaN32 p
  | none, .canonical => p = 0x7FC00000#32

/-- As `IsResult32`, for binary64. -/
def IsResult64 (mode : NanResult) (res : Option (BitVec 64)) (p : BitVec 64) : Prop :=
  match res, mode with
  | some r, _ => p = r
  | none, .drawn => isQuietNaN64 p
  | none, .canonical => p = 0x7FF8000000000000#64

/-- The lanes 0 to Size of a vector hold the results and the others their old value (45_vfpu.md R372). -/
def LanesWritten (mode : NanResult) (lanes : Lanes) (old new : Vec4) (res : Nat → Option (BitVec 32)) : Prop :=
  ∀ k, k < 4 → if k ≤ lanes.toField then IsResult32 mode (res k) (new.lane k) else new.lane k = old.lane k

/-- The instruction completes, writes the selected lanes of a vector register and changes nothing else but what
FPR_OVERLAY says of the other two views. -/
def YieldsVector (i : Instr) (s : State) (dst : VReg) (lanes : Lanes) (res : Nat → Option (BitVec 32)) : Prop :=
  ∃ t, exec i s = .next t ∧ OnlyFpr s t ∧ OnlyVector s t dst lanes ∧
    LanesWritten s.params.nanResult lanes (s.getV dst) (t.getV dst) res

/-- The instruction completes, writes a float register and changes nothing else but what FPR_OVERLAY says of the other
two views. -/
def YieldsFloat (i : Instr) (s : State) (dst : FReg) (res : Option (BitVec 32)) : Prop :=
  ∃ t, exec i s = .next t ∧ OnlyFpr s t ∧ OnlyFloat s t dst ∧ IsResult32 s.params.nanResult res (t.getF dst)

/-- The instruction completes, writes a double register and changes nothing else but what FPR_OVERLAY says of the
other two views. -/
def YieldsDouble (i : Instr) (s : State) (dst : DReg) (res : Option (BitVec 64)) : Prop :=
  ∃ t, exec i s = .next t ∧ OnlyFpr s t ∧ OnlyDouble s t dst ∧ IsResult64 s.params.nanResult res (t.getD dst)

/-- The product of lane k of two vectors, rounded. -/
def laneProduct (p : Params) (a b : Vec4) (k : Nat) : Option (BitVec 32) := fpMul32 p (a.lane k) (b.lane k)

/-- The rounded sum of two results, none where one is a NaN. -/
def sumOf (p : Params) (a b : Option (BitVec 32)) : Option (BitVec 32) := a.bind fun x => b.bind fun y => fpAdd32 p x y

/-- The inner product of lanes 0 to k summed from lane 0 upward (45_vfpu.md R387). -/
def dotUp (p : Params) (a b : Vec4) : Nat → Option (BitVec 32)
  | 0 => laneProduct p a b 0
  | k + 1 => sumOf p (dotUp p a b k) (laneProduct p a b (k + 1))

/-- A sum with the lane products k - 1 down to 0 added. -/
def dotDown (p : Params) (a b : Vec4) (sum : Option (BitVec 32)) : Nat → Option (BitVec 32)
  | 0 => sum
  | k + 1 => dotDown p a b (sumOf p sum (laneProduct p a b k)) k

/-- The inner product of lanes 0 to k, each product and each sum rounded, in the order of FP; none when a step gives a
NaN (45_vfpu.md R387; log 20 for the orders that are not the default). -/
def dotOf (p : Params) (a b : Vec4) (k : Nat) : Option (BitVec 32) :=
  match p.dotOrder with
  | .ascending => dotUp p a b k
  | .descending => dotDown p a b (laneProduct p a b k) k
  | .pairwise =>
    if k = 3 then sumOf p (dotUp p a b 1) (sumOf p (laneProduct p a b 2) (laneProduct p a b 3)) else dotUp p a b k

/-! ### The numbers patterns stand for -/

/-- A pattern of a format. -/
def FpFormat.isPattern (fmt : FpFormat) (p : Nat) : Prop := p < 2 ^ (1 + fmt.expBits + fmt.manBits)

/-- The two formats of the machine (10_state.md R33, R34). -/
def FpFormat.ofMachine (fmt : FpFormat) : Prop := fmt = binary32 ∨ fmt = binary64

/-- The rational number of a finite pattern. -/
def FpFormat.number (fmt : FpFormat) (p : Nat) : Option ℚ :=
  match fmt.unpack p with
  | .nan => none
  | .inf _ => none
  | .fin neg man exp => some ((if neg then -1 else 1) * (man : ℚ) * (2 : ℚ) ^ exp)

/-- The pattern `r` is the number `x` rounded to nearest, ties to even: it stands for a number `q`, no finite pattern
for one closer to `x`, and its last bit is 0 where another number is as close. -/
def FpFormat.nearest (fmt : FpFormat) (r : Nat) (x : ℚ) : Prop :=
  ∃ q, fmt.number r = some q ∧ ∀ p q', fmt.isPattern p → fmt.number p = some q' →
    |q - x| ≤ |q' - x| ∧ (q' ≠ q → |q - x| = |q' - x| → r % 2 = 0)

/-- The sign of a pattern. -/
def FpFormat.signOf (fmt : FpFormat) (p : Nat) : Bool := p / 2 ^ (fmt.expBits + fmt.manBits) % 2 = 1

/-- The pattern as FP takes it: a subnormal number becomes the zero of its sign where FP flushes (92_eei_decisions.md
D37; log 20). -/
def FpFormat.kept (fmt : FpFormat) (params : Params) (p : Nat) : Nat :=
  if params.subnormals = .flush ∧ p / 2 ^ fmt.manBits % 2 ^ fmt.expBits = 0 then
    if fmt.signOf p then 2 ^ (fmt.expBits + fmt.manBits) else 0
  else p

/-- A value of IEEE 754: a NaN, an infinity, or a number with its sign, which a zero has too. -/
inductive Ext where
  | nan
  | inf (neg : Bool)
  | num (neg : Bool) (x : ℚ)

/-- What an operand stands for. -/
def FpFormat.ext (fmt : FpFormat) (params : Params) (p : Nat) : Ext :=
  match fmt.unpack (fmt.kept params p) with
  | .nan => .nan
  | .inf neg => .inf neg
  | .fin neg man exp => .num neg ((if neg then -1 else 1) * (man : ℚ) * (2 : ℚ) ^ exp)

/-- The value with the other sign. -/
def Ext.neg : Ext → Ext
  | .nan => .nan
  | .inf s => .inf (!s)
  | .num s x => .num (!s) (-x)

/-- The sum of IEEE 754: infinities of unlike signs give a NaN, and a zero sum is -0 only where both operands are
negative. -/
def Ext.add : Ext → Ext → Ext
  | .nan, _ | _, .nan => .nan
  | .inf s, .inf t => if s = t then .inf s else .nan
  | .inf s, .num _ _ | .num _ _, .inf s => .inf s
  | .num s x, .num t y => .num (if x + y = 0 then s && t else decide (x + y < 0)) (x + y)

/-- The product of IEEE 754: zero times infinity is a NaN, the sign is the exclusive or. -/
def Ext.mul : Ext → Ext → Ext
  | .nan, _ | _, .nan => .nan
  | .inf s, .inf t => .inf (s != t)
  | .inf s, .num t x | .num s x, .inf t => if x = 0 then .nan else .inf (s != t)
  | .num s x, .num t y => .num (s != t) (x * y)

/-- The quotient of IEEE 754: 0 / 0 and infinity / infinity are NaNs, x / 0 an infinity, x / infinity a zero
(45_vfpu.md R420). -/
def Ext.div : Ext → Ext → Ext
  | .nan, _ | _, .nan => .nan
  | .inf _, .inf _ => .nan
  | .inf s, .num t _ => .inf (s != t)
  | .num s _, .inf t => .num (s != t) 0
  | .num s x, .num t y => if y = 0 then (if x = 0 then .nan else .inf (s != t)) else .num (s != t) (x / y)

/-- The place of a value in the order from minus infinity to infinity, in which -0 and +0 are one; none for a NaN. -/
def Ext.place : Ext → Option (WithBot (WithTop ℚ))
  | .nan => none
  | .inf s => some (if s then ⊥ else ⊤)
  | .num _ x => some (((x : ℚ) : WithTop ℚ) : WithBot (WithTop ℚ))

/-- The least magnitude that rounding to nearest takes to an infinity: half a unit above the largest number. -/
def FpFormat.overflow (fmt : FpFormat) : ℚ := (2 - 1 / 2 ^ (fmt.manBits + 1)) * 2 ^ (2 ^ (fmt.expBits - 1) - 1)

/-- The result of an operation is the pattern of an exact value rounded to nearest, ties to even: no pattern for a NaN,
the infinity for an infinity and for a number too large, else the nearest number, with the sign of the value
(45_vfpu.md R371); a subnormal result as FP takes it (log 20). -/
def FpFormat.rounds (fmt : FpFormat) (params : Params) (res : Option Nat) : Ext → Prop
  | .nan => res = none
  | .inf neg => ∃ r, res = some r ∧ fmt.isPattern r ∧ fmt.unpack r = .inf neg
  | .num neg x => ∃ r, res = some (fmt.kept params r) ∧ fmt.isPattern r ∧ fmt.signOf r = neg ∧
      if |x| < fmt.overflow then fmt.nearest r x else fmt.unpack r = .inf neg

/-- The result is the square root of a value: of -0 it is -0, of a number below 0 and of minus infinity a NaN, of plus
infinity plus infinity, else the number that no other number is closer to the root than (45_vfpu.md R421). -/
def FpFormat.isRoot (fmt : FpFormat) (res : Option Nat) : Ext → Prop
  | .nan => res = none
  | .inf neg => if neg then res = none else ∃ r, res = some r ∧ fmt.isPattern r ∧ fmt.unpack r = .inf false
  | .num neg x =>
    if x < 0 then res = none
    else ∃ r q, res = some r ∧ fmt.isPattern r ∧ fmt.number r = some q ∧ (x = 0 → q = 0 ∧ fmt.signOf r = neg) ∧
      (0 < x → 0 < q ∧ ∀ p' q', fmt.isPattern p' → fmt.number p' = some q' →
        |(q : ℝ) - √(x : ℝ)| ≤ |(q' : ℝ) - √(x : ℝ)|)

/-- A rational rounded to an integer. -/
def roundRat (mode : Rounding) (y : ℚ) : Int :=
  match mode with
  | .towardNegative => ⌊y⌋
  | .towardPositive => ⌈y⌉
  | .towardZero => if 0 ≤ y then ⌊y⌋ else ⌈y⌉
  | .nearestEven =>
    if y - ⌊y⌋ < 1 / 2 then ⌊y⌋ else if 1 / 2 < y - ⌊y⌋ then ⌊y⌋ + 1 else if ⌊y⌋ % 2 = 0 then ⌊y⌋ else ⌊y⌋ + 1

/-- The flags after a floating compare of two patterns: Z and S from the order, U as before (41_bru.md R181). -/
def FloatCompared (fmt : FpFormat) (s t : State) (a b : Nat) : Prop :=
  t = { s with pc := s.seqPc, flagZ := t.flagZ, flagS := t.flagS, draws := t.draws } ∧
    match fmt.cmp s.params a b with
    | .lt => t.flagZ = false ∧ t.flagS = true
    | .eq => t.flagZ = true ∧ t.flagS = false
    | .gt => t.flagZ = false ∧ t.flagS = false
    | .unordered => True

/-- The lanes 0 to Size of a vector stand for the numbers of a register's fixed-point lanes with q fraction bits, and
the others keep their value (45_vfpu.md R395, R400). -/
def YieldsFromFixed (i : Instr) (s : State) (q : Nat) (dst : VReg) (src : Reg) (lanes : Lanes) : Prop :=
  ∃ t, exec i s = .next t ∧ OnlyFpr s t ∧ OnlyVector s t dst lanes ∧ ∀ k, k < 4 →
    if k ≤ lanes.toField then
      binary32.number ((t.getV dst).lane k).toNat = some (((fixLane (s.getX src) k).toInt : ℚ) / 2 ^ q)
    else (t.getV dst).lane k = (s.getV dst).lane k

/-- The lanes 0 to Size of a general register hold the lanes of a vector times 2^q rounded to 16-bit integers, where
they are in range, and the others keep their value (45_vfpu.md R395, R404). -/
def YieldsToFixed (i : Instr) (s : State) (q : Nat) (dst : Reg) (src : VReg) (lanes : Lanes) : Prop :=
  ∃ t, exec i s = .next t ∧ OnlyX s t dst ∧ ∀ k, k < 4 →
    if k ≤ lanes.toField then
      ∀ neg y, binary32.ext s.params ((s.getV src).lane k).toNat = .num neg y →
        -32768 ≤ roundRat s.params.cvtRound (y * 2 ^ q) → roundRat s.params.cvtRound (y * 2 ^ q) ≤ 32767 →
          fixLane (t.getX dst) k = BitVec.ofInt 16 (roundRat s.params.cvtRound (y * 2 ^ q))
    else fixLane (t.getX dst) k = fixLane (s.getX dst) k

/-- A conversion of the pattern `p` to an N-bit integer completes: with the rounded number where it is in range, with a
free value else (45_vfpu.md R412). -/
def YieldsInteger (i : Instr) (s : State) (fmt : FpFormat) (p : Nat) (dst : Reg) (size : Size) : Prop :=
  (∀ neg y, fmt.ext s.params p = .num neg y →
    -(2 ^ (Size.bits size - 1) : Int) ≤ roundRat s.params.cvtRound y →
      roundRat s.params.cvtRound y < 2 ^ (Size.bits size - 1) →
        Yields i s dst false size (natOfInt size (roundRat s.params.cvtRound y))) ∧
    YieldsFree i s dst false size

/-! ### Places of the state -/

/-- The two states hold the same at a location. -/
def Loc.same (l : Loc) (s t : State) : Prop :=
  match l with
  | .x r => s.getX r = t.getX r
  | .f r => s.getF r = t.getF r
  | .d r => s.getD r = t.getD r
  | .v r k => (s.getV r).lane k = (t.getV r).lane k
  | .acc k => s.acc.lane k = t.acc.lane k
  | .flagZ => s.flagZ = t.flagZ
  | .flagS => s.flagS = t.flagS
  | .flagU => s.flagU = t.flagU
  | .mem sp a n => ∀ c, a ≤ c → c < a + n → s.byteAt sp c = t.byteAt sp c

/-- The six compares (41_bru.md R186 to R191). -/
def Instr.isCompare : Instr → Bool
  | .cmp _ _ _ | .cmpi _ _ _ | .fcmp _ _ | .fcmpi _ _ | .dcmp _ _ | .dcmpi _ _ => true
  | _ => false

/-- The four floating compares (41_bru.md R188 to R191). -/
def Instr.isFloatCompare : Instr → Bool
  | .fcmp _ _ | .fcmpi _ _ | .dcmp _ _ | .dcmpi _ _ => true
  | _ => false

/-- The ten conditional branches to a label (41_bru.md R196 to R205). -/
def conditionalBranches (label : Label) : List Instr :=
  [.bne label, .beq label, .bl label, .ble label, .bg label, .bge label, .bls label, .bles label, .bgs label,
    .bges label]

/-- The instructions that write the accumulator (45_vfpu.md R384, R385). -/
def Instr.writesAcc : Instr → Bool
  | .fmulva _ _ _ | .fmuladdva _ _ _ => true
  | _ => false

/-- The instructions that read the accumulator (45_vfpu.md R385, R386). -/
def Instr.readsAcc : Instr → Bool
  | .fmuladdva _ _ _ | .fmuladdvao _ _ _ _ => true
  | _ => false

end Sys2Proof.Machine
end

