-- ==== Sys2Proof/Certificates/Slice0/Obligations.lean ====
section
/-! DEFINITION. The statements for the provers (OBLIGATIONS.json). Terms in which they are stated: Safety.lean. -/

open Sys2Proof Sys2Proof.Machine

/-! ### Encoding and decoding -/

/-- Decoding gives back every well-formed instruction from its word, at every slot where it is legal
(30_encoding.md R110 to R147, R500 to R504). -/
def Obligations.EncodeThenDecode : Prop :=
  ∀ (i : Instr) (k : Slot), i.wf = true → i.legalIn k = true → decode k (encode i) = .ok i

/-- A word decodes to an instruction of one word only: the word is the instruction's encoding. FMULVA and FMULADDVA
ignore the five bits 31 to 27 (30_encoding.md R103, R137, R151). -/
def Obligations.DecodedWordIsTheEncoding : Prop :=
  ∀ (k : Slot) (w : Word) (i : Instr), decode k w = .ok i →
    i.wf = true ∧
      if Instr.writesAcc i = true then encode i = w &&& 0x07FFFFFF#32 else encode i = w

/-- The slot rules (40_bundle.md R163): some word of a slot decodes to a well-formed instruction exactly where the slot
table has its unit: BRU in slot 0, loads in slots 0 and 1, stores in slot 1, XCHG in slot 0, the other ALU instructions
in every slot, AGU in slot 1, VFPU in slots 0 and 1, VDIV in slot 0; a 2-wide bundle has no slots 2 and 3. -/
def Obligations.SlotRules : Prop :=
  (∀ (k : Slot) (i : Instr), i.wf = true →
    ((∃ w, decode k w = .ok i) ↔
      match i.issueClass with
      | .bru => k = 0
      | .load => k = 0 ∨ k = 1
      | .store => k = 1
      | .xchg => k = 0
      | .alu => True
      | .agu => k = 1
      | .vfpu => k = 0 ∨ k = 1
      | .vdiv => k = 0)) ∧
  ∀ (s : State) (words : List Word), s.xchg = false → s.fetch = .next words → words.length = 2

/-- Words that the spec prints decode to the instructions it prints them for: the source's `ldm r3, 128(r60+)` and
`in.b 42, r5`, and an example of each other group. -/
def Obligations.PrintedWordsDecode : Prop :=
  decode 0 0x0FC080D1#32 = .ok (.ldm 3 60 128 .q true) ∧ decode 1 0x142A0015#32 = .ok (.inp 5 42 .b) ∧
    decode 0 0x04200300#32 = .ok (.cmp 1 2 .q) ∧ decode 0 0x03FFD030#32 = .ok (.bne (BitVec.ofInt 14 (-3))) ∧
    decode 2 0x04200306#32 = .ok (.addi 1 2 0 .q) ∧ decode 0 0x00000022#32 = .ok .xchg ∧
    decode 1 0x00200110#32 = .ok (.lddma 58 60 2 1 true) ∧ decode 1 0x000000F4#32 = .ok .wait ∧
    decode 0 0x08860CC3#32 = .ok (.fmuladdVv 1 2 3 .xyzw) ∧ decode 0 0x02081373#32 = .ok (.fsqrt 1 2 2)

/-- The encodings that the source marks Illegal by name (30_encoding.md R149 (a) to (g)). -/
def Obligations.IllegalEncodingsAreRefused : Prop :=
  ∀ (k : Slot) (w : Word),
    (2 ≤ k.val → field w 1 0 ≠ 2 → decode k w = .error .unitNotInSlot) ∧
      (k = 0 → field w 5 0 = 0x30 → field w 7 6 = 1 → decode k w = .error .branchCategory) ∧
      (k = 0 → field w 5 0 = 0x30 → field w 7 6 = 0 → 10 ≤ field w 11 8 → decode k w = .error .branchComparator) ∧
      (field w 3 0 = 2 → field w 6 4 ∈ [1, 3, 4, 5, 7] → decode k w = .error .aluType) ∧
      (field w 6 0 = 2 → 13 ≤ field w 11 8 → decode k w = .error .aluOp) ∧
      (field w 3 0 = 6 ∨ field w 3 0 = 10 → 13 ≤ field w 7 4 → decode k w = .error .aluOp) ∧
      (k = 1 → field w 2 0 = 4 → 2 ≤ field w 7 4 → field w 7 4 ≤ 14 → decode k w = .error .aguType) ∧
      (k = 1 → field w 2 0 = 4 → field w 7 4 = 1 → field w 3 3 = 1 → decode k w = .error .dmairStore)

/-! ### Fetch, step and bundle -/

/-- Instruction fetch is little-endian: byte b of the word of slot n is the byte of ISRAM at pc + 4 n + b
(20_memory.md R60). -/
def Obligations.FetchIsLittleEndian : Prop :=
  ∀ (s : State) (words : List Word), s.fetch = .next words →
    words.length = (if s.xchg then 4 else 2) ∧
      ∀ n w, words[n]? = some w → ∀ b, b < 4 →
        s.byteAt .isram (s.pc.toNat + 4 * n + b) = some (byteOf w b)

/-- The step of a running machine whose bundle holds one instruction beside NOPs is `exec` of that instruction and the
end of the bundle: it stops as `exec` stops, it is refused where the instruction reads what LATENCY forbids, and else
the state `exec` answers goes on with the targets due under BRANCH_DELAY and the destinations settling. While
BRANCH_DELAY and LATENCY are 0 that is `exec` alone. With transfers in flight and the core's turn, all this holds
after the script's entry is taken (log 9, log 11). The model's choices: what a transfer or an End does while a target
is to come (log 21), and the refusal under LATENCY, its name and its place after the stops of `exec` (log 23). -/
def Obligations.StepRunsTheDecodedInstruction : Prop :=
  ∀ (s : State) (k : Slot) (w : Word) (i : Instr),
    s.status = .running → k.val < (if s.xchg then 4 else 2) → decode k w = .ok i →
    s.pc.toNat + 4 * (if s.xchg then 4 else 2) ≤ s.params.isramSize →
    s.readRaces .isram s.pc.toNat (4 * (if s.xchg then 4 else 2)) = false →
    (∀ n, n < (if s.xchg then 4 else 2) → ∀ b, b < 4 →
      s.byteAt .isram (s.pc.toNat + 4 * n + b) = some (byteOf (if n = k.val then w else 0x62#32) b)) →
    s.dmaq = [] ∨ (s.engineTurn = false ∧ i ≠ .wait) →
    let s' := if s.dmaq = [] then s else s.turnTaken
    (∀ e, exec i s' = .fault e → step s = .fault e) ∧ (∀ r, exec i s' = .refused r → step s = .refused r) ∧
      (∀ t, exec i s' = .next t →
        (Instr.readsEarly i s' → step s = .refused .latencyHazard) ∧
          (¬Instr.readsEarly i s' → step s = .next (t.afterBundle (Instr.settling i s')))) ∧
      (s.params.branchDelay = 0 → s.params.latency = [] → s.redirects = [] → s.unsettled = [] → step s = exec i s')

/-- Every opcode of a bundle, of 2 or of 4, with a WAIT that nothing holds or without, reads the state before the
bundle (40_bundle.md R165 to R170, R173): what an opcode writes is as `exec` of it alone on that state leaves it (the
free values and IOSRAM answers numbered on), every location that none writes is unchanged, the next pc, the return
addresses and the XCHG bit are slot 0's, the transfers in flight slot 1's. The order of the slots' free values and
answers is the model's (log 11), and so is that opcodes beside a WAIT race with none of the transfers it ends (log
10). Then the bundle ends: a target due under BRANCH_DELAY is reached and the destinations
written begin to settle (70_reset_and_hazards.md R481, R483; log 21, log 23). What a write reaches of the other two
views of the floating-point registers is FPR_OVERLAY's (log 3). -/
def Obligations.BundleReadsTheStateBeforeIt : Prop :=
  ∀ (s t : State) (is : List Instr),
    is.length = (if s.xchg then 4 else 2) → (∀ (k : Slot) i, is[k.val]? = some i → i.legalIn k = true) →
    (Instr.wait ∈ is → s.dmaq = []) → runBundle s is = .next t →
    let before := s.bundleReads is
    ∃ ts, aloneFrom before before is = .next ts ∧
      (∀ (k : Nat) (i : Instr) (u : State), is[k]? = some i → ts[k]? = some u →
        ∀ l ∈ Instr.writes i before, l.same t u) ∧
      (∀ l, (∀ i ∈ is, ∀ m ∈ Instr.writes i before, m.overlaps s.params.fprOverlay l = false) → l.same t s) ∧
      (∀ u, ts[0]? = some u → t.rs = u.rs ∧ t.xchg = u.xchg ∧ t.pc = (u.afterBundle []).pc ∧
        t.redirects = (u.afterBundle []).redirects) ∧
      (∀ u, ts[1]? = some u → t.dmaq = u.dmaq) ∧
      (∀ u, ts.getLast? = some u → t.draws = u.draws ∧ t.ioInputs = u.ioInputs ∧ t.ioLog = u.ioLog) ∧
      t.unsettled = (s.afterBundle (is.flatMap fun i => Instr.settling i before)).unsettled ∧
      t.landed = before.landed ∧ t.script = s.script ∧ t.params = s.params ∧
      t.status = if Instr.nop true ∈ is then .ended else s.status

/-- Every location that an instruction's footprint does not name is unchanged by it: all registers and lanes, each
flag, the accumulator's lanes, and every byte of every memory. A write of a float, double or vector register names
what overlaps it under FPR_OVERLAY; that under the OPEN setting these are the registers of the natural packing is the
spec's treatment, and what the other settings share is the model's choice (10_state.md R37; log 3). -/
def Obligations.OnlyTheFootprintIsWritten : Prop :=
  ∀ (i : Instr) (s t : State) (l : Loc), exec i s = .next t →
    (∀ m ∈ Instr.writes i s, m.overlaps s.params.fprOverlay l = false) → l.same t s

/-- The conflict rule, the end-with-transfer rule and the latency rule (40_bundle.md R166, R170;
70_reset_and_hazards.md R483), for a bundle of 2 or of 4 opcodes none of which stops, with a WAIT that nothing holds
or without: it is refused where a rule says so, and runs where none does. The order of the three is the model's, and
so is what counts as an early read (log 23); which locations conflict under FPR_OVERLAY is log 18, that opcodes beside
a WAIT race with none of the transfers it ends is log 10. -/
def Obligations.ConflictingBundlesAreRefused : Prop :=
  ∀ (s : State) (is : List Instr),
    is.length = (if s.xchg then 4 else 2) → (∀ (k : Slot) i, is[k.val]? = some i → i.legalIn k = true) →
    (Instr.wait ∈ is → s.dmaq = []) →
    let before := s.bundleReads is
    let touch (a b : List Loc) : Prop := ∃ l ∈ a, ∃ m ∈ b, l.overlaps s.params.fprOverlay m = true
    let conflict : Prop := ∃ (j k : Nat) (a b : Instr), j < k ∧ is[j]? = some a ∧ is[k]? = some b ∧
      (touch (Instr.writes a before) (Instr.writes b before ++ Instr.reads b before) ∨
        touch (Instr.reads a before) (Instr.writes b before) ∨ (a.issueClass = .agu ∧ b.issueClass = .agu))
    let endsJumping : Prop :=
      Instr.nop true ∈ is ∧ ∃ i, is[0]? = some i ∧ Instr.takesTransfer i before = true
    let early : Prop := ∃ i ∈ is, Instr.readsEarly i before
    (∀ i ∈ is, ∃ t, exec i before = .next t) →
      (conflict → runBundle s is = .refused .bundleConflict) ∧
        (¬conflict → endsJumping → runBundle s is = .refused .endWithTransfer) ∧
        (¬conflict → ¬endsJumping → early → runBundle s is = .refused .latencyHazard) ∧
        (¬conflict → ¬endsJumping → ¬early → ∃ t, runBundle s is = .next t)

/-- A fault or a transfer race of an opcode stops the whole bundle, with a WAIT that nothing holds or without, and the
lowest slot's is the one reported; where there is none, another refusal of an opcode stops it, the lowest slot's too
(40_bundle.md R165, R167, R173, 60_exceptions.md R446 (4), (5)). The lowest of the other refusals is the model's
choice (log 13), and so is that opcodes beside a WAIT race with none of the transfers it ends (log 10). -/
def Obligations.LowestFaultStopsTheBundle : Prop :=
  ∀ (s : State) (is : List Instr) (k : Nat) (i : Instr), (Instr.wait ∈ is → s.dmaq = []) → is[k]? = some i →
    let before := s.bundleReads is
    let first (j : Instr) : Prop := (∃ e, exec j before = .fault e) ∨ exec j before = .refused .dmaRace
    ((∀ j i', j < k → is[j]? = some i' → ¬first i') →
      (∀ e, exec i before = .fault e → runBundle s is = .fault e) ∧
        (exec i before = .refused .dmaRace → runBundle s is = .refused .dmaRace)) ∧
      ((∀ i' ∈ is, ¬first i') → (∀ j i', j < k → is[j]? = some i' → ∃ t, exec i' before = .next t) →
        ∀ r, exec i before = .refused r → runBundle s is = .refused r)

/-- The core's turn stops in the order of 60_exceptions.md R446, each stop is recorded in the status, and nothing else
of the state changes (60_exceptions.md R441 to R443): the range of the fetch, an Illegal word, lowest slot first, the
hold by a WAIT, the faults and races of the opcodes, and then, before the other refusals, a fetch from the destination
of a DMAIR in flight (40_bundle.md R161, 20_memory.md R79) or of one that is copied and that no WAIT has ordered
(44_agu.md R356, log 10). The model's choices: the place of a byte without a value, which such a race goes before, and
of the race among the refusals (log 13), that no slot is recorded for a stop of the fetch (log 14), what moves while a
WAIT holds (log 12), and with transfers in flight whose turn it is (log 9). -/
def Obligations.FetchAndDecodeStopsAreRecorded : Prop :=
  ∀ s : State, s.status = .running → s.dmaq = [] ∨ s.engineTurn = false →
    let n := 4 * (if s.xchg then 4 else 2)
    let races : Prop :=
      ∃ t ∈ s.dmaq ++ s.landed, 0 < t.len ∧ t.dst = .isram ∧ t.dstAddr < s.pc.toNat + n ∧
        s.pc.toNat < t.dstAddr + t.len
    let s' := if s.dmaq = [] then s else s.turnTaken
    if s.params.isramSize < s.pc.toNat + n then
      stepState s = { s with status := .faulted (.fetchFault s.pc) s.pc none }
    else
      (∀ c, s.pc.toNat ≤ c → c < s.pc.toNat + n → s.byteAt .isram c = none →
        (∀ b, s.pc.toNat ≤ b → b < c → s.byteAt .isram b ≠ none) →
          (races → stepState s = { s with status := .refused .fetchUnderDma }) ∧
            (¬races → stepState s = { s with status := .faulted (.uninitialisedRead .isram c) s.pc none })) ∧
        (∀ words (k : Slot) w e, s.fetch = .next words → words[k.val]? = some w → decode k w = .error e →
          (∀ (j : Slot) w', j.val < k.val → words[j.val]? = some w' → ∃ i, decode j w' = .ok i) →
            stepState s = { s with status := .faulted (.illegalOpcode s.pc k.val w) s.pc (some k.val) }) ∧
        ∀ is, s.fetchBundle = .next is →
          let before := s'.bundleReads is
          let first (i : Instr) : Prop := (∃ e, exec i before = .fault e) ∨ exec i before = .refused .dmaRace
          (Instr.wait ∈ is → s.dmaq ≠ [] → step s = s'.engineMove) ∧
            ((Instr.wait ∈ is → s.dmaq = []) →
              ((∃ i ∈ is, first i) ∨ ¬races → step s = runBundle s' is) ∧
                ((∀ i ∈ is, ¬first i) → races → stepState s = { s with status := .refused .fetchUnderDma }))

/-- A step that faults or is refused changes nothing but the status, which records it with the pc of the bundle; after
it, and after the end of the run, no step changes a register, a flag, pc or the return addresses: only the engine
moves, and with no transfer in flight there is no step (60_exceptions.md R440, R441; 40_bundle.md R174; log 14). -/
def Obligations.StopsLeaveTheStateAndLast : Prop :=
  ∀ s : State,
    (∀ e, s.status = .running → step s = .fault e →
      stepState s = { s with status := .faulted e s.pc (s.faultSlot e) }) ∧
    (∀ r, s.status = .running → step s = .refused r → stepState s = { s with status := .refused r }) ∧
    (s.status ≠ .running → s.dmaq = [] → (∀ t, step s ≠ .next t) ∧ stepState s = s) ∧
    (∀ t, s.status ≠ .running → step s = .next t →
      t = { s with isram := t.isram, dsram := t.dsram, ram := t.ram, cache := t.cache, dmaq := t.dmaq,
                   landed := t.landed, script := t.script })

/-! ### Invariants -/

/-- Every step keeps the invariant of the machine: parameters as the spec asks, pc, return addresses and targets still
to come multiples of 8, no more return addresses than CALL_DEPTH, memories canonical and inside their spaces,
transfers aligned and inside their spaces, the windows of BRANCH_DELAY and LATENCY within their lengths, and the
float, double and vector registers one file where FPR_OVERLAY says so (log 3). -/
def Obligations.StepKeepsTheInvariant : Prop :=
  ∀ s t : State, s.invariant = true → step s = .next t → t.invariant = true

/-- Every step keeps the transfers that no WAIT has ordered free of races with each other (20_memory.md R76). -/
def Obligations.StepKeepsTransfersRaceFree : Prop :=
  ∀ s t : State, s.raceFree = true → step s = .next t → t.raceFree = true

/-- The state after reset has what the spec gives it, for all parameters that the spec allows, RESET_PC among them,
and both invariants; `State.reset` is that state for the default parameters, whose sizes are the model's choice
(10_state.md R47, 70_reset_and_hazards.md R470, R471; log 7). -/
def Obligations.ResetState : Prop :=
  (∀ p : Params, p.valid = true →
    let s := State.resetWith p
    s.pc = p.resetPc ∧ s.xchg = false ∧ s.rs = [] ∧ s.dmaq = [] ∧ s.status = .running ∧ s.params = p ∧
      s.redirects = [] ∧ s.unsettled = [] ∧ (∀ sp a, s.byteAt sp a = none) ∧ s.invariant = true ∧ s.raceFree = true) ∧
  State.reset = State.resetWith Params.default ∧ Params.default.valid = true ∧ State.reset.pc = 0

/-! ### BRU -/

/-- CMP and CMPI: Z equal, S less as signed, U less as unsigned, on the N low bits; CMPI's immediate
is extended as IMM_SIGNED says (41_bru.md R180, R186, R187; 30_encoding.md R104). -/
def Obligations.IntegerCompares : Prop :=
  ∀ (s : State) (left right : Reg) (imm : BitVec 20) (size : Size),
    (let l := s.natOf left size
     let r := s.natOf right size
     exec (.cmp left right size) s = .next { s with
       pc := s.seqPc, flagZ := decide (l = r), flagS := decide (signedOf size l < signedOf size r)
       flagU := decide (l < r) }) ∧
    (let l := s.natOf left size
     let r := natOfInt size (s.immOf .cmpi imm)
     exec (.cmpi left imm size) s = .next { s with
       pc := s.seqPc, flagZ := decide (l = r), flagS := decide (signedOf size l < signedOf size r)
       flagU := decide (l < r) })

/-- FCMP, FCMPI, DCMP, DCMPI: Z and S from the order of the patterns, free when unordered; U and everything else as
before (41_bru.md R181, R188 to R191). The free flags stand in the model's own form (log 4). -/
def Obligations.FloatCompares : Prop :=
  ∀ (s : State) (fl fr : FReg) (dl dr : DReg) (imm21 : BitVec 21) (imm22 : BitVec 22),
    (∃ t, exec (.fcmp fl fr) s = .next t ∧ FloatCompared binary32 s t (s.getF fl).toNat (s.getF fr).toNat) ∧
    (∃ t, exec (.fcmpi fl imm21) s = .next t ∧
      FloatCompared binary32 s t (s.getF fl).toNat (imm21.toNat * 2 ^ 11)) ∧
    (∃ t, exec (.dcmp dl dr) s = .next t ∧ FloatCompared binary64 s t (s.getD dl).toNat (s.getD dr).toNat) ∧
    (∃ t, exec (.dcmpi dl imm22) s = .next t ∧
      FloatCompared binary64 s t (s.getD dl).toNat (imm22.toNat * 2 ^ 42))

/-- The ten conditional branches: to the target when the condition on the flags holds, at once or as BRANCH_DELAY says
(log 21), else on to the next bundle, and nothing else changes (41_bru.md R182, R183, R196 to R205;
70_reset_and_hazards.md R481). -/
def Obligations.BranchConditions : Prop :=
  ∀ (s : State) (label : Label),
    let goes (cond : Bool) : State := if cond then s.goTo (s.branchTarget label) else { s with pc := s.seqPc }
    exec (.bne label) s = .next (goes (s.flagZ = false)) ∧
      exec (.beq label) s = .next (goes (s.flagZ = true)) ∧
      exec (.bl label) s = .next (goes (s.flagU = true)) ∧
      exec (.ble label) s = .next (goes (s.flagU = true ∨ s.flagZ = true)) ∧
      exec (.bg label) s = .next (goes (s.flagU = false ∧ s.flagZ = false)) ∧
      exec (.bge label) s = .next (goes (s.flagU = false)) ∧
      exec (.bls label) s = .next (goes (s.flagS = true)) ∧
      exec (.bles label) s = .next (goes (s.flagS = true ∨ s.flagZ = true)) ∧
      exec (.bgs label) s = .next (goes (s.flagS = false ∧ s.flagZ = false)) ∧
      exec (.bges label) s = .next (goes (s.flagS = false))

/-- JMP, JMPR, CALL and CALLR: an absolute target is 8 times the label, 0 to 131064, a relative one sign-extends it
(41_bru.md R184); a call with room also remembers the bundle that follows (R206, R208; under BRANCH_DELAY too, log
21). The bundle after such a transfer is the target's when BRANCH_DELAY is 0; else BRANCH_DELAY further bundles run,
and pc is the target after the last of them (40_bundle.md R168, 70_reset_and_hazards.md R481). -/
def Obligations.JumpAndCallTargets : Prop :=
  (∀ (s : State) (label : Label),
    8 * label.toNat ≤ 131064 ∧
      exec (.jmp label) s = .next (s.goTo (BitVec.ofNat 64 (8 * label.toNat))) ∧
      exec (.jmpr label) s = .next (s.goTo (s.branchTarget label)) ∧
      (s.rs.length < s.params.callDepth →
        exec (.call label) s =
            .next (State.goTo { s with rs := s.seqPc :: s.rs } (BitVec.ofNat 64 (8 * label.toNat))) ∧
          exec (.callr label) s = .next (State.goTo { s with rs := s.seqPc :: s.rs } (s.branchTarget label)))) ∧
  ∀ (s t : State) (label : Label) (i : Instr) (rest : List Instr) (later : List (List Instr)),
    i ∈ [Instr.jmp label, .jmpr label, .call label, .callr label] → s.redirects = [] →
    later.length = s.params.branchDelay → (∀ is ∈ later, ∀ j ∈ is, Instr.isTransfer j = false) →
    runBundles ((i :: rest) :: later) s = .next t →
    t.pc = if i = .jmp label ∨ i = .call label then BitVec.ofNat 64 (8 * label.toNat) else s.branchTarget label

/-- RET goes to the most recent return address, at once or as BRANCH_DELAY says (log 21), and forgets it; RET without
one and a call without room are refused (41_bru.md R206, R208, R210; 70_reset_and_hazards.md R481). -/
def Obligations.ReturnsAndCallDepth : Prop :=
  ∀ (s : State) (label : Label),
    (∀ a rest, s.rs = a :: rest → exec .ret s = .next (State.goTo { s with rs := rest } a)) ∧
      (s.rs = [] → exec .ret s = .refused .returnWithoutCall) ∧
      (s.params.callDepth ≤ s.rs.length →
        exec (.call label) s = .refused .callDepthExceeded ∧ exec (.callr label) s = .refused .callDepthExceeded)

/-- RET after a call, whatever ran between them as long as the return addresses are as the call left them, goes to the
bundle after the call, at once or as BRANCH_DELAY says (log 21), and leaves the return addresses as they were before it
(41_bru.md R206, R208, R210). -/
def Obligations.ReturnUndoesCall : Prop :=
  ∀ (s t u : State) (label : Label) (i : Instr), i = .call label ∨ i = .callr label →
    exec i s = .next t → u.rs = t.rs →
    ∃ v, exec .ret u = .next v ∧ v.rs = s.rs ∧ v = State.goTo { u with rs := s.rs } s.seqPc ∧
      (u.params.branchDelay = 0 → v.pc = s.seqPc)

/-! ### ALU -/

/-- ADD, SUB, MULS, MULU in their three forms, immediates extended as IMM_SIGNED says (30_encoding.md R104; 43_alu.md
R284, R285, R287, R290 to R293, R303 to R306, R316 to R319). -/
def Obligations.AluArithmetic : Prop :=
  ∀ (s : State) (dst left right : Reg) (imm10 : BitVec 10) (imm16 : BitVec 16) (size : Size),
    let m := 2 ^ Size.bits size
    let add (l r : Nat) : Nat := (l + r) % m
    let sub (l r : Nat) : Nat := (l + (m - r)) % m
    let muls (l r : Nat) : Nat := natOfInt size (signedOf size l * signedOf size r)
    let mulu (l r : Nat) : Nat := l * r % m
    let d := s.natOf dst size
    let l := s.natOf left size
    let r := s.natOf right size
    let i10 (k : Mnemonic) : Nat := natOfInt size (s.immOf k imm10)
    let i16 (k : Mnemonic) : Nat := natOfInt size (s.immOf k imm16)
    Yields (.add dst left right size) s dst false size (add l r) ∧
      Yields (.sub dst left right size) s dst false size (sub l r) ∧
      Yields (.muls dst left right size) s dst true size (muls l r) ∧
      Yields (.mulu dst left right size) s dst false size (mulu l r) ∧
      Yields (.addi dst left imm10 size) s dst false size (add l (i10 .addi)) ∧
      Yields (.subi dst left imm10 size) s dst false size (sub l (i10 .subi)) ∧
      Yields (.mulsi dst left imm10 size) s dst true size (muls l (i10 .mulsi)) ∧
      Yields (.mului dst left imm10 size) s dst false size (mulu l (i10 .mului)) ∧
      Yields (.addq dst imm16 size) s dst false size (add d (i16 .addq)) ∧
      Yields (.subq dst imm16 size) s dst false size (sub d (i16 .subq)) ∧
      Yields (.mulsq dst imm16 size) s dst true size (muls d (i16 .mulsq)) ∧
      Yields (.muluq dst imm16 size) s dst false size (mulu d (i16 .muluq))

/-- AND, OR, XOR in their three forms, immediates extended as IMM_SIGNED says (30_encoding.md R104; 43_alu.md R287,
R296 to R298, R309 to R311, R322 to R324). -/
def Obligations.AluLogic : Prop :=
  ∀ (s : State) (dst left right : Reg) (imm10 : BitVec 10) (imm16 : BitVec 16) (size : Size),
    let d := s.natOf dst size
    let l := s.natOf left size
    let r := s.natOf right size
    let i10 (k : Mnemonic) : Nat := natOfInt size (s.immOf k imm10)
    let i16 (k : Mnemonic) : Nat := natOfInt size (s.immOf k imm16)
    Yields (.and dst left right size) s dst false size (l &&& r) ∧
      Yields (.or dst left right size) s dst false size (l ||| r) ∧
      Yields (.xor dst left right size) s dst false size (l ^^^ r) ∧
      Yields (.andi dst left imm10 size) s dst false size (l &&& i10 .andi) ∧
      Yields (.ori dst left imm10 size) s dst false size (l ||| i10 .ori) ∧
      Yields (.xori dst left imm10 size) s dst false size (l ^^^ i10 .xori) ∧
      Yields (.andq dst imm16 size) s dst false size (d &&& i16 .andq) ∧
      Yields (.orq dst imm16 size) s dst false size (d ||| i16 .orq) ∧
      Yields (.xorq dst imm16 size) s dst false size (d ^^^ i16 .xorq)

/-- DIVS and DIVU in their three forms, immediates extended as IMM_SIGNED says (30_encoding.md R104), where the spec
gives the quotient: the divisor is not 0, and for DIVS not -2^(N-1) / -1; the signed quotient is rounded toward zero,
which is general knowledge (log 17) (43_alu.md R288, R294, R295, R307, R308, R320, R321). -/
def Obligations.AluDivision : Prop :=
  ∀ (s : State) (dst left right : Reg) (imm10 : BitVec 10) (imm16 : BitVec 16) (size : Size),
    let quotient (l r : Nat) : Nat := natOfInt size ((signedOf size l).tdiv (signedOf size r))
    let given (l r : Nat) : Prop := ¬(signedOf size l = -2 ^ (Size.bits size - 1) ∧ signedOf size r = -1)
    let d := s.natOf dst size
    let l := s.natOf left size
    let r := s.natOf right size
    let i10 (k : Mnemonic) : Nat := natOfInt size (s.immOf k imm10)
    let i16 (k : Mnemonic) : Nat := natOfInt size (s.immOf k imm16)
    (r ≠ 0 → given l r → Yields (.divs dst left right size) s dst true size (quotient l r)) ∧
      (i10 .divsi ≠ 0 → given l (i10 .divsi) →
        Yields (.divsi dst left imm10 size) s dst true size (quotient l (i10 .divsi))) ∧
      (i16 .divsq ≠ 0 → given d (i16 .divsq) →
        Yields (.divsq dst imm16 size) s dst true size (quotient d (i16 .divsq))) ∧
      (r ≠ 0 → Yields (.divu dst left right size) s dst false size (l / r)) ∧
      (i10 .divui ≠ 0 → Yields (.divui dst left imm10 size) s dst false size (l / i10 .divui)) ∧
      (i16 .divuq ≠ 0 → Yields (.divuq dst imm16 size) s dst false size (d / i16 .divuq))

/-- ASL, LSL, ASR, LSR in their three forms, immediates extended as IMM_SIGNED says (30_encoding.md R104), for an
amount below N (43_alu.md R287, R289, R299 to R302, R312 to R315, R325 to R328). -/
def Obligations.AluShifts : Prop :=
  ∀ (s : State) (dst left right : Reg) (imm10 : BitVec 10) (imm16 : BitVec 16) (size : Size),
    let m := 2 ^ Size.bits size
    let up (l r : Nat) : Nat := l * 2 ^ r % m
    let down (l r : Nat) : Nat := l / 2 ^ r
    let downSigned (l r : Nat) : Nat := natOfInt size (signedOf size l / 2 ^ r)
    let d := s.natOf dst size
    let l := s.natOf left size
    let r := s.natOf right size
    let i10 (k : Mnemonic) : Nat := natOfInt size (s.immOf k imm10)
    let i16 (k : Mnemonic) : Nat := natOfInt size (s.immOf k imm16)
    (r < Size.bits size →
      Yields (.asl dst left right size) s dst true size (up l r) ∧
        Yields (.lsl dst left right size) s dst false size (up l r) ∧
        Yields (.asr dst left right size) s dst true size (downSigned l r) ∧
        Yields (.lsr dst left right size) s dst false size (down l r)) ∧
      (i10 .asli < Size.bits size → Yields (.asli dst left imm10 size) s dst true size (up l (i10 .asli))) ∧
      (i10 .lsli < Size.bits size → Yields (.lsli dst left imm10 size) s dst false size (up l (i10 .lsli))) ∧
      (i10 .asri < Size.bits size → Yields (.asri dst left imm10 size) s dst true size (downSigned l (i10 .asri))) ∧
      (i10 .lsri < Size.bits size → Yields (.lsri dst left imm10 size) s dst false size (down l (i10 .lsri))) ∧
      (i16 .aslq < Size.bits size → Yields (.aslq dst imm16 size) s dst true size (up d (i16 .aslq))) ∧
      (i16 .lslq < Size.bits size → Yields (.lslq dst imm16 size) s dst false size (up d (i16 .lslq))) ∧
      (i16 .asrq < Size.bits size → Yields (.asrq dst imm16 size) s dst true size (downSigned d (i16 .asrq))) ∧
      (i16 .lsrq < Size.bits size → Yields (.lsrq dst imm16 size) s dst false size (down d (i16 .lsrq)))

/-- Division by zero, the overflowing signed quotient and a shift by N or more complete too, with some N-bit result
that the spec leaves free (43_alu.md R288, R289, 60_exceptions.md R449; log 4). -/
def Obligations.AluFreeResultsComplete : Prop :=
  ∀ (s : State) (dst left right : Reg) (imm10 : BitVec 10) (imm16 : BitVec 16) (size : Size),
    YieldsFree (.divs dst left right size) s dst true size ∧ YieldsFree (.divu dst left right size) s dst false size ∧
      YieldsFree (.divsi dst left imm10 size) s dst true size ∧
      YieldsFree (.divui dst left imm10 size) s dst false size ∧
      YieldsFree (.divsq dst imm16 size) s dst true size ∧ YieldsFree (.divuq dst imm16 size) s dst false size ∧
      YieldsFree (.asl dst left right size) s dst true size ∧ YieldsFree (.lsl dst left right size) s dst false size ∧
      YieldsFree (.asr dst left right size) s dst true size ∧ YieldsFree (.lsr dst left right size) s dst false size ∧
      YieldsFree (.asli dst left imm10 size) s dst true size ∧
      YieldsFree (.lsli dst left imm10 size) s dst false size ∧
      YieldsFree (.asri dst left imm10 size) s dst true size ∧
      YieldsFree (.lsri dst left imm10 size) s dst false size ∧
      YieldsFree (.aslq dst imm16 size) s dst true size ∧ YieldsFree (.lslq dst imm16 size) s dst false size ∧
      YieldsFree (.asrq dst imm16 size) s dst true size ∧ YieldsFree (.lsrq dst imm16 size) s dst false size

/-- XCHG flips its bit after a bundle of the old width, NOP changes pc alone, NOP with End = 1 ends the run, MOVEI
writes the immediate, extended as IMM_SIGNED says (43_alu.md R281, R283, R329; 30_encoding.md R104; 40_bundle.md R169,
R170). -/
def Obligations.ControlAndImmediateAlu : Prop :=
  ∀ (s : State) (dst : Reg) (imm : BitVec 22),
    exec .xchg s = .next { s with pc := s.seqPc, xchg := !s.xchg } ∧
      exec (.nop false) s = .next { s with pc := s.seqPc } ∧
      exec (.nop true) s = .next { s with pc := s.seqPc, status := .ended } ∧
      exec (.movei dst imm) s = .next { s with pc := s.seqPc, x := s.x.set dst (BitVec.ofInt 64 (s.immOf .movei imm)) }

/-! ### LSU -/

/-- LDM, LDC and LDMX, in range, aligned, without a race and with the bytes held: the bytes in the low end of the data
register, the rest as LOAD_EXT says, the address register as the post-increment says; LDM and LDC that would increment
their own data register are refused; the immediate is extended as IMM_SIGNED says (30_encoding.md R104; 42_lsu.md
R232, R234, R239, R257, R258; 20_memory.md R61, R70, R72). -/
def Obligations.IntegerLoads : Prop :=
  ∀ (s : State) (data base : Reg) (imm : BitVec 12) (imm16 : BitVec 16) (size : Size) (inc source : Bool),
    let a (k : Mnemonic) : Int := (s.getX base).toNat + s.immOf k imm
    let n := 2 ^ size.toField
    let refused (sp : Space) (i : Instr) : Prop :=
      ∀ b, s.accessOk sp (a i.mnemonic) n → s.readRaces sp (a i.mnemonic).toNat n = false →
        s.holdsBytes sp (a i.mnemonic).toNat n b → exec i s = .refused .operandConflict
    LoadsX (.ldm data base imm size inc) s .dsram data base (a .ldm) n inc ∧
      LoadsX (.ldc data base imm size inc) s .cache data base (a .ldc) n inc ∧
      (let b : Reg := if (s.params.lsxSourceMap = .prose) = (source = true) then 63 else 62
       LoadsX (.ldmx data source imm16 size) s .dsram data b ((s.getX b).toNat + s.immOf .ldmx imm16) n false) ∧
      refused .dsram (.ldm base base imm size true) ∧ refused .cache (.ldc base base imm size true)

/-- STM, STC and STMX, in range, aligned and without a race: the low bytes of the data register at the effective
address, every other byte as before, the address register as the post-increment says; the immediate is extended as
IMM_SIGNED says (30_encoding.md R104; 42_lsu.md R233, R235, R240,
R257; 20_memory.md R61, R71, R72). -/
def Obligations.IntegerStores : Prop :=
  ∀ (s : State) (data base : Reg) (imm : BitVec 12) (imm16 : BitVec 16) (size : Size) (inc source : Bool),
    let a (k : Mnemonic) : Int := (s.getX base).toNat + s.immOf k imm
    Stores (.stm data base imm size inc) s .dsram base (a .stm) (2 ^ size.toField) inc (byteOf (s.getX data)) ∧
      Stores (.stc data base imm size inc) s .cache base (a .stc) (2 ^ size.toField) inc (byteOf (s.getX data)) ∧
      (let b : Reg := if (s.params.lsxSourceMap = .prose) = (source = true) then 63 else 62
       Stores (.stmx data source imm16 size) s .dsram b ((s.getX b).toNat + s.immOf .stmx imm16) (2 ^ size.toField)
         false (byteOf (s.getX data)))

/-- IN, OUT and OUTI, in range and aligned: IN writes a value of n bytes that the environment gives and records it, OUT
and OUTI record the n low bytes of their operand; no memory changes; the address is extended as IMM_SIGNED says
(30_encoding.md R104; 42_lsu.md R236 to R238; 20_memory.md R69, R70).
That the environment's next answer heads the list `ioInputs` is the model's choice (log 6). -/
def Obligations.IosramAccesses : Prop :=
  ∀ (s : State) (data : Reg) (addr : BitVec 8) (imm : BitVec 16) (size : Size),
    let n := 2 ^ size.toField
    let a (k : Mnemonic) : Int := s.immOf k addr
    (s.accessOk .iosram (a .inp) n →
      ∃ t v, exec (.inp data addr size) s = .next t ∧ v < 256 ^ n ∧
        (∀ answer rest, s.ioInputs = answer :: rest → v = answer.toNat % 256 ^ n) ∧
        t = { s with pc := s.seqPc, x := t.x, ioInputs := s.ioInputs.tail
                     ioLog := s.ioLog ++ [.input (a .inp).toNat n v], draws := t.draws } ∧
        LoadWritten s.params.loadExt n (s.getX data) (t.getX data) (byteOf (BitVec.ofNat 64 v)) ∧
        ∀ r, r ≠ data → t.getX r = s.getX r) ∧
    (s.accessOk .iosram (a .out) n →
      exec (.out data addr size) s = .next { s with
        pc := s.seqPc, ioLog := s.ioLog ++ [.output (a .out).toNat n ((s.getX data).toNat % 256 ^ n)] }) ∧
    (size.isShort = true → s.accessOk .iosram (a .outi) (1 + size.toField) →
      exec (.outi addr imm size) s = .next { s with
        pc := s.seqPc
        ioLog := s.ioLog ++ [.output (a .outi).toNat (1 + size.toField) (imm.toNat % 256 ^ (1 + size.toField))] })

/-- LDMV, LDCV, LDMF, LDCF, LDMD, LDCD, in range, aligned, without a race and with the bytes held: the register's
memory image is the bytes, lane x lowest; of the other two views only what FPR_OVERLAY says changes, which beside the
OPEN setting's registers is the model's choice (log 3); the immediate is extended as IMM_SIGNED says (30_encoding.md
R104; 42_lsu.md R241, R243, R245, R247, R249, R251, R256, R257, R260). -/
def Obligations.FloatingLoads : Prop :=
  ∀ (s : State) (vr : VReg) (fr : FReg) (dr : DReg) (base : Reg) (imm15 : BitVec 15) (imm16 : BitVec 16) (inc : Bool),
    let a (k : Mnemonic) : Int := (s.getX base).toNat + s.immOf k imm15
    let a16 (k : Mnemonic) : Int := (s.getX base).toNat + s.immOf k imm16
    let onlyV (s t : State) : Prop := OnlyVector s t vr .xyzw
    let onlyF (s t : State) : Prop := OnlyFloat s t fr
    let onlyD (s t : State) : Prop := OnlyDouble s t dr
    LoadsFpr (.ldmv vr base imm15 inc) s .dsram base (a .ldmv) 16 inc onlyV (fun t => vectorByte (t.getV vr)) ∧
      LoadsFpr (.ldcv vr base imm15 inc) s .cache base (a .ldcv) 16 inc onlyV (fun t => vectorByte (t.getV vr)) ∧
      LoadsFpr (.ldmf fr base imm15 inc) s .dsram base (a .ldmf) 4 inc onlyF (fun t => byteOf (t.getF fr)) ∧
      LoadsFpr (.ldcf fr base imm15 inc) s .cache base (a .ldcf) 4 inc onlyF (fun t => byteOf (t.getF fr)) ∧
      LoadsFpr (.ldmd dr base imm16 inc) s .dsram base (a16 .ldmd) 8 inc onlyD (fun t => byteOf (t.getD dr)) ∧
      LoadsFpr (.ldcd dr base imm16 inc) s .cache base (a16 .ldcd) 8 inc onlyD (fun t => byteOf (t.getD dr))

/-- STMV, STCV, STMF, STCF, STMD, STCD, in range, aligned and without a race: the register's memory image at the
effective address, every other byte as before; the immediate is extended as IMM_SIGNED says (30_encoding.md R104;
42_lsu.md R242, R244, R246, R248, R250, R252, R256, R257). -/
def Obligations.FloatingStores : Prop :=
  ∀ (s : State) (vr : VReg) (fr : FReg) (dr : DReg) (base : Reg) (imm15 : BitVec 15) (imm16 : BitVec 16) (inc : Bool),
    let a (k : Mnemonic) : Int := (s.getX base).toNat + s.immOf k imm15
    let a16 (k : Mnemonic) : Int := (s.getX base).toNat + s.immOf k imm16
    Stores (.stmv vr base imm15 inc) s .dsram base (a .stmv) 16 inc (vectorByte (s.getV vr)) ∧
      Stores (.stcv vr base imm15 inc) s .cache base (a .stcv) 16 inc (vectorByte (s.getV vr)) ∧
      Stores (.stmf fr base imm15 inc) s .dsram base (a .stmf) 4 inc (byteOf (s.getF fr)) ∧
      Stores (.stcf fr base imm15 inc) s .cache base (a .stcf) 4 inc (byteOf (s.getF fr)) ∧
      Stores (.stmd dr base imm16 inc) s .dsram base (a16 .stmd) 8 inc (byteOf (s.getD dr)) ∧
      Stores (.stcd dr base imm16 inc) s .cache base (a16 .stcd) 8 inc (byteOf (s.getD dr))

/-- The checks of every LSU access in their order: range, alignment, races with transfers, bytes without a value; an
address below 0, under IMM_SIGNED, is out of range (log 22) (42_lsu.md R259; 20_memory.md R63, R66, R67, R72, R76). -/
def Obligations.AccessChecksInOrder : Prop :=
  ∀ (i : Instr) (s : State) (sp : Space) (a : Int) (n : Nat) (writes : Bool),
    Instr.access i s = some (sp, a, n, writes) →
    if a < 0 ∨ 2 ^ 64 ≤ a ∨ s.sizeOf sp < a + n then exec i s = .fault (.addressFault sp a n)
    else if s.params.misaligned = .fault ∧ a % n ≠ 0 then exec i s = .fault (.misalignedAccess sp a.toNat n)
    else if sp ≠ .iosram ∧ (if writes then s.writeRaces sp a.toNat n else s.readRaces sp a.toNat n) = true then
      exec i s = .refused .dmaRace
    else
      sp ≠ .iosram → writes = false → ∀ c : Nat, a ≤ c → c < a + n → s.byteAt sp c = none →
        (∀ b : Nat, a ≤ b → b < c → s.byteAt sp b ≠ none) → exec i s = .fault (.uninitialisedRead sp c)

/-- Accesses of different widths see the same bytes: after a store of n bytes, a load of m bytes at an offset k inside
them gives bytes k to k + m - 1 of the value (20_memory.md R62). -/
def Obligations.MixedWidthAccessSeesBytes : Prop :=
  ∀ (s t : State) (sp : Space) (a n k m v : Nat), sp ≠ .iosram → a + n ≤ 2 ^ 64 →
    s.store sp a n v = .next t → 0 < m → k + m ≤ n → (t.params.misaligned = .fault → (a + k) % m = 0) →
    t.load sp (a + k) m = .next (v / 256 ^ k % 256 ^ m)

/-! ### AGU and the transfer engine -/

/-- LDDMA, STDMA, LDDMAR, STDMAR and DMAIR append their transfer when both ranges lie inside their spaces and it races
no other, and do nothing for length 0; no register, flag or byte changes (44_agu.md R351 to R356). A base or a size is
extended as IMM_SIGNED says (30_encoding.md R104); what an address or a size below 0 does is log 22. -/
def Obligations.TransferStarts : Prop :=
  ∀ (i : Instr) (s : State) (q : Request), Instr.transfer i s = some q →
    (q.len = 0 → exec i s = .next { s with pc := s.seqPc }) ∧
      (0 < q.len → q.sourceIn s → q.destinationIn s → s.newRaces q.record = false →
        exec i s = .next { s with pc := s.seqPc, dmaq := s.dmaq ++ [q.record] })

/-- The checks of a transfer that is not empty, in their order: source range, destination range, races (44_agu.md
R351). It races with the transfers in flight (R351 (3)) and with those that are copied and that no WAIT has ordered
(20_memory.md R76; log 10, which also takes a source over such a destination for a race, a case that R76 does not
list). An address below 0, under IMM_SIGNED, is out of range (log 22). -/
def Obligations.TransferChecksInOrder : Prop :=
  ∀ (i : Instr) (s : State) (q : Request), Instr.transfer i s = some q → 0 < q.len →
    (¬q.sourceIn s → exec i s = .fault (.addressFault q.src q.srcAddr q.len)) ∧
      (q.sourceIn s → ¬q.destinationIn s → exec i s = .fault (.addressFault q.dst q.dstAddr q.len)) ∧
      (q.sourceIn s → q.destinationIn s → s.newRaces q.record = true → exec i s = .refused .dmaRace) ∧
      (q.sourceIn s → q.destinationIn s → s.newRaces q.record = false → ∃ t, exec i s = .next t)

/-- Every transfer that an instruction starts has addresses that are a register or a register plus a base times 32,
the base extended as IMM_SIGNED says (30_encoding.md R104), and a length that is a multiple of 32, so that both its
ends are 32-byte aligned (20_memory.md R65). -/
def Obligations.TransferAlignment : Prop :=
  ∀ (i : Instr) (s t : State), exec i s = .next t →
    t.dmaq = s.dmaq ∨ ∃ tr, t.dmaq = s.dmaq ++ [tr] ∧
      (∃ (r : Reg) (base : BitVec 12), (tr.srcAddr : Int) = 32 * ((s.getX r).toNat + s.immOf i.mnemonic base)) ∧
      (∃ (r : Reg) (base : BitVec 12), (tr.dstAddr : Int) = 32 * ((s.getX r).toNat + s.immOf i.mnemonic base)) ∧
      tr.len % 32 = 0 ∧ tr.srcAddr % 32 = 0 ∧ tr.dstAddr % 32 = 0

/-- WAIT with no transfer in flight completes and orders every earlier transfer; with one it holds the core: its `exec`
leaves the state as it is, which is the model's way to say that the core has no step (log 12). The field `landed`, of
the transfers no WAIT has ordered, is the model's (log 10) (40_bundle.md R173; 44_agu.md R358; 20_memory.md R77). -/
def Obligations.WaitHoldsOrCompletes : Prop :=
  ∀ s : State,
    (s.dmaq = [] → exec .wait s = .next { s with pc := s.seqPc, landed := [] }) ∧
      (s.dmaq ≠ [] → exec .wait s = .next s)

/-- A step of the engine copies exactly one byte that was not copied yet, from its source place to its destination
place, changes no other byte and no other state, and leaves one byte less to copy (40_bundle.md R171). -/
def Obligations.EngineCopiesOneByte : Prop :=
  ∀ s : State, s.invariant = true → s.dmaq ≠ [] → s.sourcesHeld →
    ∃ t tr k, s.engineMove = .next t ∧ tr ∈ s.dmaq ∧ k < tr.len ∧ k ∉ tr.copied ∧
      t.byteAt tr.dst (tr.dstAddr + k) = s.byteAt tr.src (tr.srcAddr + k) ∧
      (∀ sp c, ¬(sp = tr.dst ∧ c = tr.dstAddr + k) → t.byteAt sp c = s.byteAt sp c) ∧
      t.remaining + 1 = s.remaining ∧
      t = { s with isram := t.isram, dsram := t.dsram, cache := t.cache, ram := t.ram, dmaq := t.dmaq
                   landed := t.landed, script := t.script }

/-- Once the core has stopped, the engine completes every transfer in flight in as many steps as there are bytes left,
and whatever order it takes every destination byte is the source byte as it was and no other byte changes
(40_bundle.md R171, R174; 20_memory.md R76). -/
def Obligations.StoppedMachineCompletesTransfers : Prop :=
  ∀ s : State, s.invariant = true → s.raceFree = true → s.sourcesHeld → s.status ≠ .running →
    ∃ t, runSteps s.remaining s = .next t ∧ t.dmaq = [] ∧
      (∀ tr ∈ s.dmaq, ∀ k, k < tr.len → k ∉ tr.copied →
        t.byteAt tr.dst (tr.dstAddr + k) = s.byteAt tr.src (tr.srcAddr + k)) ∧
      ∀ sp c, (∀ tr ∈ s.dmaq, ∀ k, k < tr.len → k ∉ tr.copied → ¬(sp = tr.dst ∧ c = tr.dstAddr + k)) →
        t.byteAt sp c = s.byteAt sp c

/-- A WAIT never holds for ever: from a running state whose bundle holds a WAIT and lies under no DMAIR, as many steps
as there are bytes left to copy lead to a state with no transfer in flight, the same pc, registers and flags, and the
same bundle, which then runs (40_bundle.md R173; 44_agu.md R358). -/
def Obligations.HeldBundleRunsAfterTheTransfers : Prop :=
  ∀ (s : State) (is : List Instr), s.invariant = true → s.raceFree = true → s.sourcesHeld → s.status = .running →
    s.fetchBundle = .next is → hasWait is = true → s.fetchRaces = false →
    ∃ t, runSteps s.remaining s = .next t ∧ t.dmaq = [] ∧ t.status = .running ∧ t.fetchBundle = .next is ∧
      step t = runBundle t is ∧
      t = { s with isram := t.isram, dsram := t.dsram, cache := t.cache, ram := t.ram, dmaq := []
                   landed := t.landed, script := t.script }

/-! ### VFPU and VDIV -/

/-- FADD, FSUB, FMUL and FMULADD on vectors and on a vector and a float, and FMULADDVAO: lanes 0 to Size hold the
result of the numerics record, the other lanes and all but what FPR_OVERLAY says of the other views (log 3) keep their
value; a NaN's pattern is free (log 5, log 20) (45_vfpu.md R371 to R374, R376 to R383, R386). -/
def Obligations.VectorArithmetic : Prop :=
  ∀ (s : State) (dst left right : VReg) (float : FReg) (lanes : Lanes),
    let a := (s.getV left).lane
    let b := (s.getV right).lane
    let d := (s.getV dst).lane
    let f := s.getF float
    let p := s.params
    YieldsVector (.faddVv dst left right lanes) s dst lanes (fun k => fpAdd32 p (a k) (b k)) ∧
      YieldsVector (.fsubVv dst left right lanes) s dst lanes (fun k => fpSub32 p (a k) (b k)) ∧
      YieldsVector (.fmulVv dst left right lanes) s dst lanes (fun k => fpMul32 p (a k) (b k)) ∧
      YieldsVector (.fmuladdVv dst left right lanes) s dst lanes (fun k => fpMuladd32 p (a k) (b k) (d k)) ∧
      YieldsVector (.faddVf dst left float lanes) s dst lanes (fun k => fpAdd32 p (a k) f) ∧
      YieldsVector (.fsubVf dst left float lanes) s dst lanes (fun k => fpSub32 p (a k) f) ∧
      YieldsVector (.fmulVf dst left float lanes) s dst lanes (fun k => fpMul32 p (a k) f) ∧
      YieldsVector (.fmuladdVf dst left float lanes) s dst lanes (fun k => fpMuladd32 p (a k) f (d k)) ∧
      YieldsVector (.fmuladdvao dst left float lanes) s dst lanes (fun k => fpMuladd32 p (a k) f (s.acc.lane k))

/-- FMULVA and FMULADDVA write lanes 0 to Size of the accumulator and no register (45_vfpu.md R372, R384, R385; a NaN's
pattern is free, log 5, log 20). -/
def Obligations.AccumulatorArithmetic : Prop :=
  ∀ (s : State) (vec : VReg) (float : FReg) (lanes : Lanes),
    let a := (s.getV vec).lane
    let f := s.getF float
    let yields (i : Instr) (res : Nat → Option (BitVec 32)) : Prop :=
      ∃ t, exec i s = .next t ∧ t = { s with pc := s.seqPc, acc := t.acc, draws := t.draws } ∧
        LanesWritten s.params.nanResult lanes s.acc t.acc res
    yields (.fmulva vec float lanes) (fun k => fpMul32 s.params (a k) f) ∧
      yields (.fmuladdva vec float lanes) (fun k => fpMuladd32 s.params (a k) f (s.acc.lane k))

/-- The instructions that write one float register: FIPR, products summed in the order of FP, CVT.D2F, FDIV and FSQRT
(45_vfpu.md R387, R393, R419 to R421; overlap is log 3, a NaN's pattern log 5 and log 20). -/
def Obligations.FloatResults : Prop :=
  ∀ (s : State) (dst left right : FReg) (src : DReg) (v1 v2 : VReg) (lanes : Lanes),
    let p := s.params
    let operand := if p.sqrtOperand = .source1 then left else right
    YieldsFloat (.fipr dst v1 v2 lanes) s dst (dotOf p (s.getV v1) (s.getV v2) lanes.toField) ∧
      YieldsFloat (.cvtD2f dst src) s dst (on32 (binary64.convert binary32 p (s.getD src).toNat)) ∧
      YieldsFloat (.fdiv dst left right) s dst (on32 (binary32.div p (s.getF left).toNat (s.getF right).toNat)) ∧
      YieldsFloat (.fsqrt dst left right) s dst (on32 (binary32.sqrt p (s.getF operand).toNat))

/-- The instructions that write one double register: FADD.D, FSUB.D, FMUL.D, FMULADD.D, CVT.F2D, DDIV and DSQRT
(45_vfpu.md R388 to R392, R419, R422, R423; overlap is log 3, a NaN's pattern log 5 and log 20). -/
def Obligations.DoubleResults : Prop :=
  ∀ (s : State) (dst left right : DReg) (src : FReg),
    let p := s.params
    let a := (s.getD left).toNat
    let b := (s.getD right).toNat
    let operand := if p.sqrtOperand = .source1 then left else right
    YieldsDouble (.faddD dst left right) s dst (on64 (binary64.add p a b)) ∧
      YieldsDouble (.fsubD dst left right) s dst (on64 (binary64.sub p a b)) ∧
      YieldsDouble (.fmulD dst left right) s dst (on64 (binary64.mul p a b)) ∧
      YieldsDouble (.fmuladdD dst left right) s dst (on64 (binary64.muladd p a b (s.getD dst).toNat)) ∧
      YieldsDouble (.cvtF2d dst src) s dst (on64 (binary32.convert binary64 p (s.getF src).toNat)) ∧
      YieldsDouble (.ddiv dst left right) s dst (on64 (binary64.div p a b)) ∧
      YieldsDouble (.dsqrt dst left right) s dst (on64 (binary64.sqrt p (s.getD operand).toNat))

/-- ITOF0, ITOF4, ITOF8 and ITOF15 are exact: each selected lane stands for i / 2^q. FTOI0, FTOI4, FTOI8 and FTOI15
round the lane times 2^q by FP.cvt_round (log 17) where that is in range (45_vfpu.md R372, R395, R400 to R407; overlap
is log 3, a subnormal operand as FP takes it log 20). -/
def Obligations.FixedPointConversions : Prop :=
  ∀ (s : State) (vr : VReg) (r : Reg) (lanes : Lanes),
    YieldsFromFixed (.itof0 vr r lanes) s 0 vr r lanes ∧ YieldsFromFixed (.itof4 vr r lanes) s 4 vr r lanes ∧
      YieldsFromFixed (.itof8 vr r lanes) s 8 vr r lanes ∧ YieldsFromFixed (.itof15 vr r lanes) s 15 vr r lanes ∧
      YieldsToFixed (.ftoi0 r vr lanes) s 0 r vr lanes ∧ YieldsToFixed (.ftoi4 r vr lanes) s 4 r vr lanes ∧
      YieldsToFixed (.ftoi8 r vr lanes) s 8 r vr lanes ∧ YieldsToFixed (.ftoi15 r vr lanes) s 15 r vr lanes

/-- CVT.I2F and CVT.I2D round the signed N-bit integer, here to nearest; CVT.F2I and CVT.D2I round the number by
FP.cvt_round where that is in the N-bit signed range, and complete with a free value elsewhere (45_vfpu.md R408 to
R412; overlap is log 3, a subnormal operand as FP takes it log 20). -/
def Obligations.IntegerConversions : Prop :=
  ∀ (s : State) (fr : FReg) (dr : DReg) (r : Reg) (size : Size),
    let i := signedOf size (s.natOf r size)
    (∃ t, exec (.cvtI2f fr r size) s = .next t ∧ OnlyFpr s t ∧ OnlyFloat s t fr ∧
      (s.params.rounding = .nearestEven → binary32.rounds s.params (some (t.getF fr).toNat) (.num (i < 0) i))) ∧
    (∃ t, exec (.cvtI2d dr r size) s = .next t ∧ OnlyFpr s t ∧ OnlyDouble s t dr ∧
      (s.params.rounding = .nearestEven → binary64.rounds s.params (some (t.getD dr).toNat) (.num (i < 0) i))) ∧
    YieldsInteger (.cvtF2i r fr size) s binary32 (s.getF fr).toNat r size ∧
    YieldsInteger (.cvtD2i r dr size) s binary64 (s.getD dr).toNat r size

/-- MOVEFI, MOVEDI and MOVEVI write the immediate as the high bits of the pattern over zeros (45_vfpu.md R424 to R426;
what the other two views then hold is as FPR_OVERLAY says, log 3). -/
def Obligations.FloatingImmediates : Prop :=
  ∀ (s : State) (fr : FReg) (dr : DReg) (vr : VReg) (i21 : BitVec 21) (i22 : BitVec 22) (i23 : BitVec 23),
    YieldsFloat (.movefi fr i21) s fr (some (i21 ++ 0#11)) ∧
      YieldsDouble (.movedi dr i22) s dr (some (i22 ++ 0#42)) ∧
      YieldsVector (.movevi vr i23) s vr .xyzw (fun _ => some (i23 ++ 0#9))

/-! ### Rules over the whole machine -/

/-- The flags: the six compares write them and nothing else does; the four floating compares leave U (10_state.md
R29). -/
def Obligations.OnlyComparesWriteFlags : Prop :=
  ∀ (i : Instr) (s t : State), exec i s = .next t →
    (Instr.isCompare i = false → t.flagZ = s.flagZ ∧ t.flagS = s.flagS ∧ t.flagU = s.flagU) ∧
      (Instr.isFloatCompare i = true → t.flagU = s.flagU)

/-- The ten conditional branches read the flags: there are flags under which the next pc, or the target to come under
BRANCH_DELAY, differs. Of every instruction, the ten among them, the registers, the accumulator, the memories and all
else but pc, the targets to come and the flags do not depend on the flags, so that no register receives one; of every
other instruction pc and the targets to come do not either; and no instruction but a compare changes a flag, so that
none receives a register (10_state.md R30). -/
def Obligations.OnlyBranchesReadFlags : Prop :=
  (∀ (label : Label) (i : Instr) (s : State), i ∈ conditionalBranches label →
    (s.params.branchDelay = 0 → s.branchTarget label ≠ s.seqPc) →
    ∃ z g u z' g' u' t t', exec i (s.setFlags z g u) = .next t ∧ exec i (s.setFlags z' g' u') = .next t' ∧
      (t.pc ≠ t'.pc ∨ t.redirects ≠ t'.redirects)) ∧
  ∀ (i : Instr) (s t : State) (z g u : Bool), exec i s = .next t →
    (∃ t', exec i (s.setFlags z g u) = .next t' ∧
      t' = { t with flagZ := t'.flagZ, flagS := t'.flagS, flagU := t'.flagU
                    pc := t'.pc, redirects := t'.redirects } ∧
      ((∀ label, i ∉ conditionalBranches label) → t'.pc = t.pc ∧ t'.redirects = t.redirects)) ∧
    (Instr.isCompare i = false → t.flagZ = s.flagZ ∧ t.flagS = s.flagS ∧ t.flagU = s.flagU)

/-- The XCHG bit: 4 opcodes are fetched when it is 1 and 2 when it is 0; the XCHG instruction flips it and nothing else
changes it; and no register that an instruction writes depends on it (10_state.md R31). -/
def Obligations.XchgBit : Prop :=
  (∀ (s : State) (words : List Word), s.fetch = .next words → words.length = if s.xchg then 4 else 2) ∧
  ∀ (i : Instr) (s t : State), exec i s = .next t →
    t.xchg = (if i = .xchg then !s.xchg else s.xchg) ∧
      ∃ u, exec i { s with xchg := !s.xchg } = .next u ∧ u.x = t.x ∧ u.f = t.f ∧ u.d = t.d ∧ u.v = t.v ∧ u.acc = t.acc

/-- The accumulator: FMULVA and FMULADDVA write it and nothing else does; FMULADDVA and FMULADDVAO read it and nothing
else does, so that no load, store or move reaches it (10_state.md R36). -/
def Obligations.AccumulatorAccess : Prop :=
  ∀ (i : Instr) (s t : State) (a : Vec4), exec i s = .next t →
    (Instr.writesAcc i = false → t.acc = s.acc) ∧
      (Instr.readsAcc i = false → ∃ u, exec i { s with acc := a } = .next u ∧ u = { t with acc := u.acc })

/-- ISRAM: no instruction reads or writes it, and none starts a transfer that reads it; a step changes a byte of it
only where a transfer in flight has its destination; and only DMAIR starts such a transfer, from RAM (10_state.md
R39). -/
def Obligations.IsramIsWrittenByDmairOnly : Prop :=
  (∀ (i : Instr) (s t : State) (m : Memory), exec i s = .next t →
    t.isram = s.isram ∧ exec i { s with isram := m } = .next { t with isram := m } ∧
      ∀ tr ∈ t.dmaq, tr ∉ s.dmaq →
        tr.src ≠ .isram ∧ (tr.dst = .isram → tr.src = .ram ∧ ∃ a b c, i = .dmair a b c)) ∧
  ∀ (s t : State) (c : Nat), step s = .next t → t.byteAt .isram c ≠ s.byteAt .isram c →
    ∃ tr ∈ s.dmaq, tr.dst = .isram ∧ tr.dstAddr ≤ c ∧ c < tr.dstAddr + tr.len

/-! ### The numerics record -/

/-- Rounding is exact on what a pattern stands for: packing the value of a pattern gives the pattern back, in both
formats and under every rounding direction; denormals and signed zeros are kept (45_vfpu.md R371). -/
def Obligations.PackingAnUnpackedPattern : Prop :=
  ∀ (fmt : FpFormat) (mode : Rounding) (p : Nat), fmt.ofMachine → fmt.isPattern p → fmt.unpack p ≠ .nan →
    fmt.pack mode (fmt.unpack p) = some p

/-- FP.cmp is the order from minus infinity to infinity: -0 and +0 are equal, an infinity equals itself, a NaN is
unordered with everything (41_bru.md R181); subnormal operands are as FP takes them (log 20). -/
def Obligations.CompareIsTheOrderOfNumbers : Prop :=
  ∀ (fmt : FpFormat) (p : Params) (a b : Nat), fmt.ofMachine → fmt.isPattern a → fmt.isPattern b →
    let left := (fmt.ext p a).place
    let right := (fmt.ext p b).place
    (∀ x y, left = some x → right = some y →
      (fmt.cmp p a b = .lt ↔ x < y) ∧ (fmt.cmp p a b = .eq ↔ x = y) ∧ (fmt.cmp p a b = .gt ↔ y < x)) ∧
    (left = none ∨ right = none → fmt.cmp p a b = .unordered)

/-- Addition, subtraction and multiplication of any two values, and conversion between the formats, are the exact
results rounded to nearest, ties to even, with the NaNs, infinities and signs of zeros of IEEE 754 (45_vfpu.md R371,
R392, R393, with the default rounding). A multiply-add is the sum of the rounded product and the addend where FP does
not fuse, and rounds once where it does (R373). What flushing subnormal numbers means is log 20. -/
def Obligations.SumsAndProductsRoundToNearest : Prop :=
  ∀ (fmt target : FpFormat) (p : Params) (a b c : Nat), fmt.ofMachine → target.ofMachine → p.rounding = .nearestEven →
    fmt.isPattern a → fmt.isPattern b → fmt.isPattern c →
    let x := fmt.ext p a
    let y := fmt.ext p b
    fmt.rounds p (fmt.add p a b) (x.add y) ∧ fmt.rounds p (fmt.sub p a b) (x.add y.neg) ∧
      fmt.rounds p (fmt.mul p a b) (x.mul y) ∧
      (p.fused = false → fmt.muladd p a b c = (fmt.mul p a b).bind fun r => fmt.add p r c) ∧
      (p.fused = true → fmt.rounds p (fmt.muladd p a b c) ((x.mul y).add (fmt.ext p c))) ∧
      target.rounds p (fmt.convert target p a) x

/-- Quotients of any two values are the exact quotients rounded to nearest, ties to even, x / 0 an infinity and 0 / 0
a NaN; a square root is a number no other number is closer to the root than, that of -0 is -0, that of a negative
number a NaN (45_vfpu.md R371, R375, R420 to R423, with the default rounding). What flushing subnormal numbers means
is log 20. -/
def Obligations.QuotientsAndRootsRoundToNearest : Prop :=
  ∀ (fmt : FpFormat) (p : Params) (a b : Nat), fmt.ofMachine → p.rounding = .nearestEven →
    fmt.isPattern a → fmt.isPattern b →
    fmt.rounds p (fmt.div p a b) ((fmt.ext p a).div (fmt.ext p b)) ∧ fmt.isRoot (fmt.sqrt p a) (fmt.ext p a)

/-- CVT.F2D followed by CVT.D2F gives every float that is no NaN back, bit for bit, under every rounding direction; a
subnormal float as FP takes it (45_vfpu.md R392, R393; log 20). -/
def Obligations.FloatDoubleFloatRoundTrip : Prop :=
  ∀ (s t : State) (d : DReg) (f g : FReg), binary32.unpack (s.getF f).toNat ≠ .nan →
    exec (.cvtF2d d f) s = .next t → ∃ u, exec (.cvtD2f g d) t = .next u ∧
      (u.getF g).toNat = binary32.kept s.params (s.getF f).toNat

/-- ITOFq followed by FTOIq gives the selected fixed-point lanes back, for q = 0, 4, 8 and 15, under every rounding
(45_vfpu.md R400 to R407). -/
def Obligations.FixedPointRoundTrip : Prop :=
  ∀ (s t : State) (v : VReg) (r q : Reg) (lanes : Lanes) (up down : Instr),
    (up, down) ∈ [(Instr.itof0 v r lanes, Instr.ftoi0 q v lanes), (.itof4 v r lanes, .ftoi4 q v lanes),
      (.itof8 v r lanes, .ftoi8 q v lanes), (.itof15 v r lanes, .ftoi15 q v lanes)] →
    exec up s = .next t → ∃ u, exec down t = .next u ∧
      ∀ k, k ≤ lanes.toField → fixLane (u.getX q) k = fixLane (s.getX r) k
end

