-- ==== Sys2Proof/Laws/Memory.lean ====
section
/-! SUPPORT. The laws of a memory space: a read after a write, the canonical form, the bounds. -/

namespace Sys2Proof.Machine

open Sys2Proof

/-! ### Read after write -/

@[simp] theorem Memory.get?_set_self (m : Memory) (a : Nat) (b : Byte) : (m.set a b).get? a = some b := by
  induction m with
  | nil => simp [Memory.set, Memory.get?]
  | cons c rest ih =>
    obtain ⟨k, c⟩ := c
    simp only [Memory.set]
    split
    · simp [Memory.get?]
    · split
      · simp [Memory.get?]
      · have : k ≠ a := fun h => by omega
        simp [Memory.get?, this, ih]

theorem Memory.get?_set_of_ne (m : Memory) (a c : Nat) (b : Byte) (h : c ≠ a) : (m.set a b).get? c = m.get? c := by
  induction m with
  | nil => simp [Memory.set, Memory.get?, h.symm]
  | cons e rest ih =>
    obtain ⟨k, e⟩ := e
    simp only [Memory.set]
    split
    · simp [Memory.get?, h.symm]
    · split
      · rename_i hk
        subst hk
        simp [Memory.get?, h.symm]
      · simp [Memory.get?, ih]

/-- A write of bytes leaves every byte outside them. -/
theorem Memory.get?_writeBytes_of_outside (m : Memory) (a : Nat) (bs : List Byte) (c : Nat)
    (h : c < a ∨ a + bs.length ≤ c) : (m.writeBytes a bs).get? c = m.get? c := by
  induction bs generalizing m a with
  | nil => rfl
  | cons b bs ih =>
    simp only [List.length_cons] at h
    rw [Memory.writeBytes, ih _ _ (by omega), Memory.get?_set_of_ne _ _ _ _ (by omega)]

/-- A write of bytes puts each at its place. -/
theorem Memory.get?_writeBytes (m : Memory) (a : Nat) (bs : List Byte) (k : Nat) (h : k < bs.length) :
    (m.writeBytes a bs).get? (a + k) = bs[k]? := by
  induction bs generalizing m a k with
  | nil => simp at h
  | cons b bs ih =>
    cases k with
    | zero =>
      rw [Memory.writeBytes, Memory.get?_writeBytes_of_outside _ _ _ _ (by omega)]
      simp
    | succ k =>
      have := ih (m.set a b) (a + 1) k (by simpa using h)
      simpa [Memory.writeBytes, Nat.add_assoc, Nat.add_comm 1 k] using this

/-- What a read of bytes gives: as many as asked for, each the byte at its place. -/
theorem Memory.readBytes_ok {m : Memory} {a n : Nat} {bs : List Byte} (h : m.readBytes a n = .ok bs) :
    bs.length = n ∧ ∀ k, k < n → m.get? (a + k) = bs[k]? := by
  induction n generalizing a bs with
  | zero => simp [Memory.readBytes] at h; simp [← h]
  | succ n ih =>
    simp only [Memory.readBytes] at h
    split at h
    · cases h
    · rename_i b hb
      split at h
      · rename_i rest hr
        cases h
        obtain ⟨hl, hg⟩ := ih hr
        refine ⟨by simp [hl], fun k hk => ?_⟩
        cases k with
        | zero => simpa using hb
        | succ k =>
          have := hg k (by omega)
          simpa [Nat.add_assoc, Nat.add_comm 1 k] using this
      · cases h

/-- Where a read of bytes stops: the first byte that holds no value. -/
theorem Memory.readBytes_error {m : Memory} {a n e : Nat} (h : m.readBytes a n = .error e) :
    a ≤ e ∧ e < a + n ∧ m.get? e = none ∧ ∀ c, a ≤ c → c < e → m.get? c ≠ none := by
  induction n generalizing a with
  | zero => simp [Memory.readBytes] at h
  | succ n ih =>
    simp only [Memory.readBytes] at h
    split at h
    · rename_i hb
      cases h
      exact ⟨le_refl _, by omega, hb, fun c h1 h2 => absurd h2 (by omega)⟩
    · rename_i b hb
      split at h
      · cases h
      · rename_i e' hr
        cases h
        obtain ⟨h1, h2, h3, h4⟩ := ih hr
        refine ⟨by omega, by omega, h3, fun c hc hc' => ?_⟩
        by_cases hca : c = a
        · subst hca; simp [hb]
        · exact h4 c (by omega) hc'

/-! ### The canonical form and the bounds -/

theorem Memory.wfAbove_set (m : Memory) (lo a : Nat) (b : Byte) (hm : Memory.wfAbove lo m = true) (ha : lo < a) :
    Memory.wfAbove lo (m.set a b) = true := by
  induction m generalizing lo with
  | nil => simp [Memory.set, Memory.wfAbove, ha]
  | cons c rest ih =>
    obtain ⟨k, c⟩ := c
    simp only [Memory.wfAbove, Bool.and_eq_true, decide_eq_true_eq] at hm
    simp only [Memory.set]
    split
    · simp [Memory.wfAbove, *]
    · split
      · rename_i h; subst h; simp [Memory.wfAbove, ha, hm]
      · simp [Memory.wfAbove, hm, ih k hm.2 (by omega)]

/-- Writing a byte keeps the canonical form. -/
theorem Memory.wf_set (m : Memory) (a : Nat) (b : Byte) (hm : m.wf = true) : (m.set a b).wf = true := by
  cases m with
  | nil => simp [Memory.set, Memory.wf, Memory.wfAbove]
  | cons c rest =>
    obtain ⟨k, c⟩ := c
    simp only [Memory.wf] at hm
    simp only [Memory.set]
    split
    · simp [Memory.wf, Memory.wfAbove, *]
    · split
      · rename_i h; subst h; simpa [Memory.wf] using hm
      · simpa [Memory.wf] using Memory.wfAbove_set rest k a b hm (by omega)

/-- Writing a byte inside the space keeps the bounds. -/
theorem Memory.fits_set (m : Memory) (size a : Nat) (b : Byte) (hm : m.fits size = true) (ha : a < size) :
    (m.set a b).fits size = true := by
  induction m with
  | nil => simp [Memory.set, Memory.fits, ha]
  | cons c rest ih =>
    obtain ⟨k, c⟩ := c
    simp only [Memory.fits, List.all_cons, Bool.and_eq_true, decide_eq_true_eq] at hm ih ⊢
    simp only [Memory.set]
    split
    · simp [ha, hm.1, hm.2]
    · split
      · simp [ha, hm.2]
      · simp [hm.1, ih hm.2]

/-- Writing bytes keeps the canonical form. -/
theorem Memory.wf_writeBytes (m : Memory) (a : Nat) (bs : List Byte) (hm : m.wf = true) :
    (m.writeBytes a bs).wf = true := by
  induction bs generalizing m a with
  | nil => exact hm
  | cons b bs ih => exact ih _ _ (Memory.wf_set m a b hm)

/-- Writing bytes inside the space keeps the bounds. -/
theorem Memory.fits_writeBytes (m : Memory) (size a : Nat) (bs : List Byte) (hm : m.fits size = true)
    (h : a + bs.length ≤ size) : (m.writeBytes a bs).fits size = true := by
  induction bs generalizing m a with
  | nil => exact hm
  | cons b bs ih =>
    simp only [List.length_cons] at h
    exact ih _ _ (Memory.fits_set m size a b hm (by omega)) (by omega)

/-- The memories of the reset state have the canonical form. -/
theorem Memory.wf_reset (sp : Space) : (State.reset.mem sp).wf = true := by
  cases sp <;> rfl

/-! ### Bytes of a value -/

@[simp] theorem leBytes_length (n v : Nat) : (leBytes n v).length = n := by
  induction n generalizing v with
  | zero => rfl
  | succ n ih => simp [leBytes, ih]

/-- Byte k of a value. -/
theorem leBytes_getElem? (n v k : Nat) (h : k < n) : (leBytes n v)[k]? = some (BitVec.ofNat 8 (v / 256 ^ k)) := by
  induction n generalizing v k with
  | zero => omega
  | succ n ih =>
    cases k with
    | zero => simp [leBytes]
    | succ k =>
      rw [leBytes, List.getElem?_cons_succ, ih (v / 256) k (by omega), Nat.div_div_eq_div_mul, pow_succ']

/-- The value of the bytes of a value. -/
theorem leNat_leBytes (n v : Nat) : leNat (leBytes n v) = v % 256 ^ n := by
  induction n generalizing v with
  | zero => simp [leBytes, leNat, Nat.mod_one]
  | succ n ih =>
    rw [leBytes, leNat, ih, pow_succ', Nat.mod_mul]
    simp

/-- CACHE is a memory of its own under every setting of CACHE_MODEL (10_state.md R40). -/
@[simp] theorem State.cacheBytes_eq (s : State) : s.cacheBytes = s.cache := rfl

@[simp] theorem State.setCacheBytes_eq (s : State) (m : Memory) : s.setCacheBytes m = { s with cache := m } := rfl

/-- The bytes of a state's space after the space is replaced. -/
theorem State.byteAt_setMem (s : State) (sp sp' : Space) (m : Memory) (a : Nat) (h : sp' ≠ .iosram) :
    (s.setMem sp' m).byteAt sp a = if sp = sp' then m.get? a else s.byteAt sp a := by
  cases sp <;> cases sp' <;> simp_all [State.byteAt, State.mem, State.setMem]

/-! ### Ranges -/

/-- Two ranges overlap exactly when some byte lies in both. -/
theorem rangesOverlap_iff {a n b m : Nat} :
    rangesOverlap a n b m = true ↔ ∃ c, (a ≤ c ∧ c < a + n) ∧ b ≤ c ∧ c < b + m := by
  simp only [rangesOverlap, Bool.and_eq_true, decide_eq_true_eq]
  constructor
  · intro h
    exact ⟨max a b, by omega, by omega⟩
  · rintro ⟨c, h1, h2⟩
    omega

/-- An empty range overlaps nothing. -/
@[simp] theorem rangesOverlap_empty (a b m : Nat) : rangesOverlap a 0 b m = false := by
  simp [rangesOverlap]

end Sys2Proof.Machine
end

