-- ==== Sys2Proof/Laws/State.lean ====
section
/-! SUPPORT. The fields of every updated state: one lemma per field and update, so that no proof unfolds an update. -/

namespace Sys2Proof.Machine

open Sys2Proof

/-! ### tick -/

@[simp] theorem State.tick_x (s : State) (n : Nat) : (s.tick n).x = s.x := rfl
@[simp] theorem State.tick_pc (s : State) (n : Nat) : (s.tick n).pc = s.pc := rfl
@[simp] theorem State.tick_flagZ (s : State) (n : Nat) : (s.tick n).flagZ = s.flagZ := rfl
@[simp] theorem State.tick_flagS (s : State) (n : Nat) : (s.tick n).flagS = s.flagS := rfl
@[simp] theorem State.tick_flagU (s : State) (n : Nat) : (s.tick n).flagU = s.flagU := rfl
@[simp] theorem State.tick_xchg (s : State) (n : Nat) : (s.tick n).xchg = s.xchg := rfl
@[simp] theorem State.tick_f (s : State) (n : Nat) : (s.tick n).f = s.f := rfl
@[simp] theorem State.tick_d (s : State) (n : Nat) : (s.tick n).d = s.d := rfl
@[simp] theorem State.tick_v (s : State) (n : Nat) : (s.tick n).v = s.v := rfl
@[simp] theorem State.tick_acc (s : State) (n : Nat) : (s.tick n).acc = s.acc := rfl
@[simp] theorem State.tick_isram (s : State) (n : Nat) : (s.tick n).isram = s.isram := rfl
@[simp] theorem State.tick_dsram (s : State) (n : Nat) : (s.tick n).dsram = s.dsram := rfl
@[simp] theorem State.tick_cache (s : State) (n : Nat) : (s.tick n).cache = s.cache := rfl
@[simp] theorem State.tick_ram (s : State) (n : Nat) : (s.tick n).ram = s.ram := rfl
@[simp] theorem State.tick_rs (s : State) (n : Nat) : (s.tick n).rs = s.rs := rfl
@[simp] theorem State.tick_dmaq (s : State) (n : Nat) : (s.tick n).dmaq = s.dmaq := rfl
@[simp] theorem State.tick_status (s : State) (n : Nat) : (s.tick n).status = s.status := rfl
@[simp] theorem State.tick_redirects (s : State) (n : Nat) : (s.tick n).redirects = s.redirects := rfl
@[simp] theorem State.tick_unsettled (s : State) (n : Nat) : (s.tick n).unsettled = s.unsettled := rfl
@[simp] theorem State.tick_landed (s : State) (n : Nat) : (s.tick n).landed = s.landed := rfl
@[simp] theorem State.tick_ioLog (s : State) (n : Nat) : (s.tick n).ioLog = s.ioLog := rfl
@[simp] theorem State.tick_ioInputs (s : State) (n : Nat) : (s.tick n).ioInputs = s.ioInputs := rfl
@[simp] theorem State.tick_script (s : State) (n : Nat) : (s.tick n).script = s.script := rfl
@[simp] theorem State.tick_draws (s : State) (n : Nat) : (s.tick n).draws = s.draws + n := rfl
@[simp] theorem State.tick_params (s : State) (n : Nat) : (s.tick n).params = s.params := rfl

/-! ### setX -/

@[simp] theorem State.setX_x (s : State) (r : Reg) (value : XWord) : (s.setX r value).x = s.x.set r value := rfl
@[simp] theorem State.setX_pc (s : State) (r : Reg) (value : XWord) : (s.setX r value).pc = s.pc := rfl
@[simp] theorem State.setX_flagZ (s : State) (r : Reg) (value : XWord) : (s.setX r value).flagZ = s.flagZ := rfl
@[simp] theorem State.setX_flagS (s : State) (r : Reg) (value : XWord) : (s.setX r value).flagS = s.flagS := rfl
@[simp] theorem State.setX_flagU (s : State) (r : Reg) (value : XWord) : (s.setX r value).flagU = s.flagU := rfl
@[simp] theorem State.setX_xchg (s : State) (r : Reg) (value : XWord) : (s.setX r value).xchg = s.xchg := rfl
@[simp] theorem State.setX_f (s : State) (r : Reg) (value : XWord) : (s.setX r value).f = s.f := rfl
@[simp] theorem State.setX_d (s : State) (r : Reg) (value : XWord) : (s.setX r value).d = s.d := rfl
@[simp] theorem State.setX_v (s : State) (r : Reg) (value : XWord) : (s.setX r value).v = s.v := rfl
@[simp] theorem State.setX_acc (s : State) (r : Reg) (value : XWord) : (s.setX r value).acc = s.acc := rfl
@[simp] theorem State.setX_isram (s : State) (r : Reg) (value : XWord) : (s.setX r value).isram = s.isram := rfl
@[simp] theorem State.setX_dsram (s : State) (r : Reg) (value : XWord) : (s.setX r value).dsram = s.dsram := rfl
@[simp] theorem State.setX_cache (s : State) (r : Reg) (value : XWord) : (s.setX r value).cache = s.cache := rfl
@[simp] theorem State.setX_ram (s : State) (r : Reg) (value : XWord) : (s.setX r value).ram = s.ram := rfl
@[simp] theorem State.setX_rs (s : State) (r : Reg) (value : XWord) : (s.setX r value).rs = s.rs := rfl
@[simp] theorem State.setX_dmaq (s : State) (r : Reg) (value : XWord) : (s.setX r value).dmaq = s.dmaq := rfl
@[simp] theorem State.setX_status (s : State) (r : Reg) (value : XWord) : (s.setX r value).status = s.status := rfl
@[simp] theorem State.setX_redirects (s : State) (r : Reg) (value : XWord) :
    (s.setX r value).redirects = s.redirects := rfl
@[simp] theorem State.setX_unsettled (s : State) (r : Reg) (value : XWord) :
    (s.setX r value).unsettled = s.unsettled := rfl
@[simp] theorem State.setX_landed (s : State) (r : Reg) (value : XWord) : (s.setX r value).landed = s.landed := rfl
@[simp] theorem State.setX_ioLog (s : State) (r : Reg) (value : XWord) : (s.setX r value).ioLog = s.ioLog := rfl
@[simp] theorem State.setX_ioInputs (s : State) (r : Reg) (value : XWord) :
    (s.setX r value).ioInputs = s.ioInputs := rfl
@[simp] theorem State.setX_script (s : State) (r : Reg) (value : XWord) : (s.setX r value).script = s.script := rfl
@[simp] theorem State.setX_draws (s : State) (r : Reg) (value : XWord) : (s.setX r value).draws = s.draws := rfl
@[simp] theorem State.setX_params (s : State) (r : Reg) (value : XWord) : (s.setX r value).params = s.params := rfl

/-! ### setF -/

@[simp] theorem State.setF_x (s : State) (r : FReg) (value : BitVec 32) : (s.setF r value).x = s.x := rfl
@[simp] theorem State.setF_pc (s : State) (r : FReg) (value : BitVec 32) : (s.setF r value).pc = s.pc := rfl
@[simp] theorem State.setF_flagZ (s : State) (r : FReg) (value : BitVec 32) : (s.setF r value).flagZ = s.flagZ := rfl
@[simp] theorem State.setF_flagS (s : State) (r : FReg) (value : BitVec 32) : (s.setF r value).flagS = s.flagS := rfl
@[simp] theorem State.setF_flagU (s : State) (r : FReg) (value : BitVec 32) : (s.setF r value).flagU = s.flagU := rfl
@[simp] theorem State.setF_xchg (s : State) (r : FReg) (value : BitVec 32) : (s.setF r value).xchg = s.xchg := rfl
@[simp] theorem State.setF_f (s : State) (r : FReg) (value : BitVec 32) : (s.setF r value).f = s.f.set r value := rfl
@[simp] theorem State.setF_d (s : State) (r : FReg) (value : BitVec 32) :
    (s.setF r value).d = doublesAfterFloat s.params.fprOverlay s.d r value s.draws := rfl
@[simp] theorem State.setF_v (s : State) (r : FReg) (value : BitVec 32) :
    (s.setF r value).v = vectorsAfterFloat s.params.fprOverlay s.v r value s.draws := rfl
@[simp] theorem State.setF_acc (s : State) (r : FReg) (value : BitVec 32) : (s.setF r value).acc = s.acc := rfl
@[simp] theorem State.setF_isram (s : State) (r : FReg) (value : BitVec 32) : (s.setF r value).isram = s.isram := rfl
@[simp] theorem State.setF_dsram (s : State) (r : FReg) (value : BitVec 32) : (s.setF r value).dsram = s.dsram := rfl
@[simp] theorem State.setF_cache (s : State) (r : FReg) (value : BitVec 32) : (s.setF r value).cache = s.cache := rfl
@[simp] theorem State.setF_ram (s : State) (r : FReg) (value : BitVec 32) : (s.setF r value).ram = s.ram := rfl
@[simp] theorem State.setF_rs (s : State) (r : FReg) (value : BitVec 32) : (s.setF r value).rs = s.rs := rfl
@[simp] theorem State.setF_dmaq (s : State) (r : FReg) (value : BitVec 32) : (s.setF r value).dmaq = s.dmaq := rfl
@[simp] theorem State.setF_status (s : State) (r : FReg) (value : BitVec 32) :
    (s.setF r value).status = s.status := rfl
@[simp] theorem State.setF_redirects (s : State) (r : FReg) (value : BitVec 32) :
    (s.setF r value).redirects = s.redirects := rfl
@[simp] theorem State.setF_unsettled (s : State) (r : FReg) (value : BitVec 32) :
    (s.setF r value).unsettled = s.unsettled := rfl
@[simp] theorem State.setF_landed (s : State) (r : FReg) (value : BitVec 32) :
    (s.setF r value).landed = s.landed := rfl
@[simp] theorem State.setF_ioLog (s : State) (r : FReg) (value : BitVec 32) : (s.setF r value).ioLog = s.ioLog := rfl
@[simp] theorem State.setF_ioInputs (s : State) (r : FReg) (value : BitVec 32) :
    (s.setF r value).ioInputs = s.ioInputs := rfl
@[simp] theorem State.setF_script (s : State) (r : FReg) (value : BitVec 32) :
    (s.setF r value).script = s.script := rfl
@[simp] theorem State.setF_draws (s : State) (r : FReg) (value : BitVec 32) :
    (s.setF r value).draws = s.draws + 4 := rfl
@[simp] theorem State.setF_params (s : State) (r : FReg) (value : BitVec 32) :
    (s.setF r value).params = s.params := rfl

/-! ### setD -/

@[simp] theorem State.setD_x (s : State) (r : DReg) (value : BitVec 64) : (s.setD r value).x = s.x := rfl
@[simp] theorem State.setD_pc (s : State) (r : DReg) (value : BitVec 64) : (s.setD r value).pc = s.pc := rfl
@[simp] theorem State.setD_flagZ (s : State) (r : DReg) (value : BitVec 64) : (s.setD r value).flagZ = s.flagZ := rfl
@[simp] theorem State.setD_flagS (s : State) (r : DReg) (value : BitVec 64) : (s.setD r value).flagS = s.flagS := rfl
@[simp] theorem State.setD_flagU (s : State) (r : DReg) (value : BitVec 64) : (s.setD r value).flagU = s.flagU := rfl
@[simp] theorem State.setD_xchg (s : State) (r : DReg) (value : BitVec 64) : (s.setD r value).xchg = s.xchg := rfl
@[simp] theorem State.setD_f (s : State) (r : DReg) (value : BitVec 64) :
    (s.setD r value).f = floatsAfterDouble s.params.fprOverlay s.f r value (s.draws + 4) := rfl
@[simp] theorem State.setD_d (s : State) (r : DReg) (value : BitVec 64) : (s.setD r value).d = s.d.set r value := rfl
@[simp] theorem State.setD_v (s : State) (r : DReg) (value : BitVec 64) :
    (s.setD r value).v = vectorsAfterDouble s.params.fprOverlay s.v r value s.draws := rfl
@[simp] theorem State.setD_acc (s : State) (r : DReg) (value : BitVec 64) : (s.setD r value).acc = s.acc := rfl
@[simp] theorem State.setD_isram (s : State) (r : DReg) (value : BitVec 64) : (s.setD r value).isram = s.isram := rfl
@[simp] theorem State.setD_dsram (s : State) (r : DReg) (value : BitVec 64) : (s.setD r value).dsram = s.dsram := rfl
@[simp] theorem State.setD_cache (s : State) (r : DReg) (value : BitVec 64) : (s.setD r value).cache = s.cache := rfl
@[simp] theorem State.setD_ram (s : State) (r : DReg) (value : BitVec 64) : (s.setD r value).ram = s.ram := rfl
@[simp] theorem State.setD_rs (s : State) (r : DReg) (value : BitVec 64) : (s.setD r value).rs = s.rs := rfl
@[simp] theorem State.setD_dmaq (s : State) (r : DReg) (value : BitVec 64) : (s.setD r value).dmaq = s.dmaq := rfl
@[simp] theorem State.setD_status (s : State) (r : DReg) (value : BitVec 64) :
    (s.setD r value).status = s.status := rfl
@[simp] theorem State.setD_redirects (s : State) (r : DReg) (value : BitVec 64) :
    (s.setD r value).redirects = s.redirects := rfl
@[simp] theorem State.setD_unsettled (s : State) (r : DReg) (value : BitVec 64) :
    (s.setD r value).unsettled = s.unsettled := rfl
@[simp] theorem State.setD_landed (s : State) (r : DReg) (value : BitVec 64) :
    (s.setD r value).landed = s.landed := rfl
@[simp] theorem State.setD_ioLog (s : State) (r : DReg) (value : BitVec 64) : (s.setD r value).ioLog = s.ioLog := rfl
@[simp] theorem State.setD_ioInputs (s : State) (r : DReg) (value : BitVec 64) :
    (s.setD r value).ioInputs = s.ioInputs := rfl
@[simp] theorem State.setD_script (s : State) (r : DReg) (value : BitVec 64) :
    (s.setD r value).script = s.script := rfl
@[simp] theorem State.setD_draws (s : State) (r : DReg) (value : BitVec 64) :
    (s.setD r value).draws = s.draws + 6 := rfl
@[simp] theorem State.setD_params (s : State) (r : DReg) (value : BitVec 64) :
    (s.setD r value).params = s.params := rfl

/-! ### setLanes -/

@[simp] theorem State.setLanes_x (s : State) (r : VReg) (lanes : Lanes) (value : Vec4) :
    (s.setLanes r lanes value).x = s.x := rfl
@[simp] theorem State.setLanes_pc (s : State) (r : VReg) (lanes : Lanes) (value : Vec4) :
    (s.setLanes r lanes value).pc = s.pc := rfl
@[simp] theorem State.setLanes_flagZ (s : State) (r : VReg) (lanes : Lanes) (value : Vec4) :
    (s.setLanes r lanes value).flagZ = s.flagZ := rfl
@[simp] theorem State.setLanes_flagS (s : State) (r : VReg) (lanes : Lanes) (value : Vec4) :
    (s.setLanes r lanes value).flagS = s.flagS := rfl
@[simp] theorem State.setLanes_flagU (s : State) (r : VReg) (lanes : Lanes) (value : Vec4) :
    (s.setLanes r lanes value).flagU = s.flagU := rfl
@[simp] theorem State.setLanes_xchg (s : State) (r : VReg) (lanes : Lanes) (value : Vec4) :
    (s.setLanes r lanes value).xchg = s.xchg := rfl
@[simp] theorem State.setLanes_f (s : State) (r : VReg) (lanes : Lanes) (value : Vec4) :
    (s.setLanes r lanes value).f = floatsAfterLanes s.params.fprOverlay s.f r lanes value s.draws := rfl
@[simp] theorem State.setLanes_d (s : State) (r : VReg) (lanes : Lanes) (value : Vec4) :
    (s.setLanes r lanes value).d = doublesAfterLanes s.params.fprOverlay s.d r lanes value s.draws := rfl
@[simp] theorem State.setLanes_v (s : State) (r : VReg) (lanes : Lanes) (value : Vec4) :
    (s.setLanes r lanes value).v = s.v.set r value := rfl
@[simp] theorem State.setLanes_acc (s : State) (r : VReg) (lanes : Lanes) (value : Vec4) :
    (s.setLanes r lanes value).acc = s.acc := rfl
@[simp] theorem State.setLanes_isram (s : State) (r : VReg) (lanes : Lanes) (value : Vec4) :
    (s.setLanes r lanes value).isram = s.isram := rfl
@[simp] theorem State.setLanes_dsram (s : State) (r : VReg) (lanes : Lanes) (value : Vec4) :
    (s.setLanes r lanes value).dsram = s.dsram := rfl
@[simp] theorem State.setLanes_cache (s : State) (r : VReg) (lanes : Lanes) (value : Vec4) :
    (s.setLanes r lanes value).cache = s.cache := rfl
@[simp] theorem State.setLanes_ram (s : State) (r : VReg) (lanes : Lanes) (value : Vec4) :
    (s.setLanes r lanes value).ram = s.ram := rfl
@[simp] theorem State.setLanes_rs (s : State) (r : VReg) (lanes : Lanes) (value : Vec4) :
    (s.setLanes r lanes value).rs = s.rs := rfl
@[simp] theorem State.setLanes_dmaq (s : State) (r : VReg) (lanes : Lanes) (value : Vec4) :
    (s.setLanes r lanes value).dmaq = s.dmaq := rfl
@[simp] theorem State.setLanes_status (s : State) (r : VReg) (lanes : Lanes) (value : Vec4) :
    (s.setLanes r lanes value).status = s.status := rfl
@[simp] theorem State.setLanes_redirects (s : State) (r : VReg) (lanes : Lanes) (value : Vec4) :
    (s.setLanes r lanes value).redirects = s.redirects := rfl
@[simp] theorem State.setLanes_unsettled (s : State) (r : VReg) (lanes : Lanes) (value : Vec4) :
    (s.setLanes r lanes value).unsettled = s.unsettled := rfl
@[simp] theorem State.setLanes_landed (s : State) (r : VReg) (lanes : Lanes) (value : Vec4) :
    (s.setLanes r lanes value).landed = s.landed := rfl
@[simp] theorem State.setLanes_ioLog (s : State) (r : VReg) (lanes : Lanes) (value : Vec4) :
    (s.setLanes r lanes value).ioLog = s.ioLog := rfl
@[simp] theorem State.setLanes_ioInputs (s : State) (r : VReg) (lanes : Lanes) (value : Vec4) :
    (s.setLanes r lanes value).ioInputs = s.ioInputs := rfl
@[simp] theorem State.setLanes_script (s : State) (r : VReg) (lanes : Lanes) (value : Vec4) :
    (s.setLanes r lanes value).script = s.script := rfl
@[simp] theorem State.setLanes_draws (s : State) (r : VReg) (lanes : Lanes) (value : Vec4) :
    (s.setLanes r lanes value).draws = s.draws + 4 := rfl
@[simp] theorem State.setLanes_params (s : State) (r : VReg) (lanes : Lanes) (value : Vec4) :
    (s.setLanes r lanes value).params = s.params := rfl

/-! ### setAcc -/

@[simp] theorem State.setAcc_x (s : State) (value : Vec4) : (s.setAcc value).x = s.x := rfl
@[simp] theorem State.setAcc_pc (s : State) (value : Vec4) : (s.setAcc value).pc = s.pc := rfl
@[simp] theorem State.setAcc_flagZ (s : State) (value : Vec4) : (s.setAcc value).flagZ = s.flagZ := rfl
@[simp] theorem State.setAcc_flagS (s : State) (value : Vec4) : (s.setAcc value).flagS = s.flagS := rfl
@[simp] theorem State.setAcc_flagU (s : State) (value : Vec4) : (s.setAcc value).flagU = s.flagU := rfl
@[simp] theorem State.setAcc_xchg (s : State) (value : Vec4) : (s.setAcc value).xchg = s.xchg := rfl
@[simp] theorem State.setAcc_f (s : State) (value : Vec4) : (s.setAcc value).f = s.f := rfl
@[simp] theorem State.setAcc_d (s : State) (value : Vec4) : (s.setAcc value).d = s.d := rfl
@[simp] theorem State.setAcc_v (s : State) (value : Vec4) : (s.setAcc value).v = s.v := rfl
@[simp] theorem State.setAcc_acc (s : State) (value : Vec4) : (s.setAcc value).acc = value := rfl
@[simp] theorem State.setAcc_isram (s : State) (value : Vec4) : (s.setAcc value).isram = s.isram := rfl
@[simp] theorem State.setAcc_dsram (s : State) (value : Vec4) : (s.setAcc value).dsram = s.dsram := rfl
@[simp] theorem State.setAcc_cache (s : State) (value : Vec4) : (s.setAcc value).cache = s.cache := rfl
@[simp] theorem State.setAcc_ram (s : State) (value : Vec4) : (s.setAcc value).ram = s.ram := rfl
@[simp] theorem State.setAcc_rs (s : State) (value : Vec4) : (s.setAcc value).rs = s.rs := rfl
@[simp] theorem State.setAcc_dmaq (s : State) (value : Vec4) : (s.setAcc value).dmaq = s.dmaq := rfl
@[simp] theorem State.setAcc_status (s : State) (value : Vec4) : (s.setAcc value).status = s.status := rfl
@[simp] theorem State.setAcc_redirects (s : State) (value : Vec4) : (s.setAcc value).redirects = s.redirects := rfl
@[simp] theorem State.setAcc_unsettled (s : State) (value : Vec4) : (s.setAcc value).unsettled = s.unsettled := rfl
@[simp] theorem State.setAcc_landed (s : State) (value : Vec4) : (s.setAcc value).landed = s.landed := rfl
@[simp] theorem State.setAcc_ioLog (s : State) (value : Vec4) : (s.setAcc value).ioLog = s.ioLog := rfl
@[simp] theorem State.setAcc_ioInputs (s : State) (value : Vec4) : (s.setAcc value).ioInputs = s.ioInputs := rfl
@[simp] theorem State.setAcc_script (s : State) (value : Vec4) : (s.setAcc value).script = s.script := rfl
@[simp] theorem State.setAcc_draws (s : State) (value : Vec4) : (s.setAcc value).draws = s.draws := rfl
@[simp] theorem State.setAcc_params (s : State) (value : Vec4) : (s.setAcc value).params = s.params := rfl

/-! ### setFlags -/

@[simp] theorem State.setFlags_x (s : State) (z sg u : Bool) : (s.setFlags z sg u).x = s.x := rfl
@[simp] theorem State.setFlags_pc (s : State) (z sg u : Bool) : (s.setFlags z sg u).pc = s.pc := rfl
@[simp] theorem State.setFlags_flagZ (s : State) (z sg u : Bool) : (s.setFlags z sg u).flagZ = z := rfl
@[simp] theorem State.setFlags_flagS (s : State) (z sg u : Bool) : (s.setFlags z sg u).flagS = sg := rfl
@[simp] theorem State.setFlags_flagU (s : State) (z sg u : Bool) : (s.setFlags z sg u).flagU = u := rfl
@[simp] theorem State.setFlags_xchg (s : State) (z sg u : Bool) : (s.setFlags z sg u).xchg = s.xchg := rfl
@[simp] theorem State.setFlags_f (s : State) (z sg u : Bool) : (s.setFlags z sg u).f = s.f := rfl
@[simp] theorem State.setFlags_d (s : State) (z sg u : Bool) : (s.setFlags z sg u).d = s.d := rfl
@[simp] theorem State.setFlags_v (s : State) (z sg u : Bool) : (s.setFlags z sg u).v = s.v := rfl
@[simp] theorem State.setFlags_acc (s : State) (z sg u : Bool) : (s.setFlags z sg u).acc = s.acc := rfl
@[simp] theorem State.setFlags_isram (s : State) (z sg u : Bool) : (s.setFlags z sg u).isram = s.isram := rfl
@[simp] theorem State.setFlags_dsram (s : State) (z sg u : Bool) : (s.setFlags z sg u).dsram = s.dsram := rfl
@[simp] theorem State.setFlags_cache (s : State) (z sg u : Bool) : (s.setFlags z sg u).cache = s.cache := rfl
@[simp] theorem State.setFlags_ram (s : State) (z sg u : Bool) : (s.setFlags z sg u).ram = s.ram := rfl
@[simp] theorem State.setFlags_rs (s : State) (z sg u : Bool) : (s.setFlags z sg u).rs = s.rs := rfl
@[simp] theorem State.setFlags_dmaq (s : State) (z sg u : Bool) : (s.setFlags z sg u).dmaq = s.dmaq := rfl
@[simp] theorem State.setFlags_status (s : State) (z sg u : Bool) : (s.setFlags z sg u).status = s.status := rfl
@[simp] theorem State.setFlags_redirects (s : State) (z sg u : Bool) :
    (s.setFlags z sg u).redirects = s.redirects := rfl
@[simp] theorem State.setFlags_unsettled (s : State) (z sg u : Bool) :
    (s.setFlags z sg u).unsettled = s.unsettled := rfl
@[simp] theorem State.setFlags_landed (s : State) (z sg u : Bool) : (s.setFlags z sg u).landed = s.landed := rfl
@[simp] theorem State.setFlags_ioLog (s : State) (z sg u : Bool) : (s.setFlags z sg u).ioLog = s.ioLog := rfl
@[simp] theorem State.setFlags_ioInputs (s : State) (z sg u : Bool) : (s.setFlags z sg u).ioInputs = s.ioInputs := rfl
@[simp] theorem State.setFlags_script (s : State) (z sg u : Bool) : (s.setFlags z sg u).script = s.script := rfl
@[simp] theorem State.setFlags_draws (s : State) (z sg u : Bool) : (s.setFlags z sg u).draws = s.draws := rfl
@[simp] theorem State.setFlags_params (s : State) (z sg u : Bool) : (s.setFlags z sg u).params = s.params := rfl

/-! ### flipXchg -/

@[simp] theorem State.flipXchg_x (s : State) : (s.flipXchg).x = s.x := rfl
@[simp] theorem State.flipXchg_pc (s : State) : (s.flipXchg).pc = s.pc := rfl
@[simp] theorem State.flipXchg_flagZ (s : State) : (s.flipXchg).flagZ = s.flagZ := rfl
@[simp] theorem State.flipXchg_flagS (s : State) : (s.flipXchg).flagS = s.flagS := rfl
@[simp] theorem State.flipXchg_flagU (s : State) : (s.flipXchg).flagU = s.flagU := rfl
@[simp] theorem State.flipXchg_xchg (s : State) : (s.flipXchg).xchg = !s.xchg := rfl
@[simp] theorem State.flipXchg_f (s : State) : (s.flipXchg).f = s.f := rfl
@[simp] theorem State.flipXchg_d (s : State) : (s.flipXchg).d = s.d := rfl
@[simp] theorem State.flipXchg_v (s : State) : (s.flipXchg).v = s.v := rfl
@[simp] theorem State.flipXchg_acc (s : State) : (s.flipXchg).acc = s.acc := rfl
@[simp] theorem State.flipXchg_isram (s : State) : (s.flipXchg).isram = s.isram := rfl
@[simp] theorem State.flipXchg_dsram (s : State) : (s.flipXchg).dsram = s.dsram := rfl
@[simp] theorem State.flipXchg_cache (s : State) : (s.flipXchg).cache = s.cache := rfl
@[simp] theorem State.flipXchg_ram (s : State) : (s.flipXchg).ram = s.ram := rfl
@[simp] theorem State.flipXchg_rs (s : State) : (s.flipXchg).rs = s.rs := rfl
@[simp] theorem State.flipXchg_dmaq (s : State) : (s.flipXchg).dmaq = s.dmaq := rfl
@[simp] theorem State.flipXchg_status (s : State) : (s.flipXchg).status = s.status := rfl
@[simp] theorem State.flipXchg_redirects (s : State) : (s.flipXchg).redirects = s.redirects := rfl
@[simp] theorem State.flipXchg_unsettled (s : State) : (s.flipXchg).unsettled = s.unsettled := rfl
@[simp] theorem State.flipXchg_landed (s : State) : (s.flipXchg).landed = s.landed := rfl
@[simp] theorem State.flipXchg_ioLog (s : State) : (s.flipXchg).ioLog = s.ioLog := rfl
@[simp] theorem State.flipXchg_ioInputs (s : State) : (s.flipXchg).ioInputs = s.ioInputs := rfl
@[simp] theorem State.flipXchg_script (s : State) : (s.flipXchg).script = s.script := rfl
@[simp] theorem State.flipXchg_draws (s : State) : (s.flipXchg).draws = s.draws := rfl
@[simp] theorem State.flipXchg_params (s : State) : (s.flipXchg).params = s.params := rfl

/-! ### endRun -/

@[simp] theorem State.endRun_x (s : State) : (s.endRun).x = s.x := rfl
@[simp] theorem State.endRun_pc (s : State) : (s.endRun).pc = s.pc := rfl
@[simp] theorem State.endRun_flagZ (s : State) : (s.endRun).flagZ = s.flagZ := rfl
@[simp] theorem State.endRun_flagS (s : State) : (s.endRun).flagS = s.flagS := rfl
@[simp] theorem State.endRun_flagU (s : State) : (s.endRun).flagU = s.flagU := rfl
@[simp] theorem State.endRun_xchg (s : State) : (s.endRun).xchg = s.xchg := rfl
@[simp] theorem State.endRun_f (s : State) : (s.endRun).f = s.f := rfl
@[simp] theorem State.endRun_d (s : State) : (s.endRun).d = s.d := rfl
@[simp] theorem State.endRun_v (s : State) : (s.endRun).v = s.v := rfl
@[simp] theorem State.endRun_acc (s : State) : (s.endRun).acc = s.acc := rfl
@[simp] theorem State.endRun_isram (s : State) : (s.endRun).isram = s.isram := rfl
@[simp] theorem State.endRun_dsram (s : State) : (s.endRun).dsram = s.dsram := rfl
@[simp] theorem State.endRun_cache (s : State) : (s.endRun).cache = s.cache := rfl
@[simp] theorem State.endRun_ram (s : State) : (s.endRun).ram = s.ram := rfl
@[simp] theorem State.endRun_rs (s : State) : (s.endRun).rs = s.rs := rfl
@[simp] theorem State.endRun_dmaq (s : State) : (s.endRun).dmaq = s.dmaq := rfl
@[simp] theorem State.endRun_status (s : State) : (s.endRun).status = .ended := rfl
@[simp] theorem State.endRun_redirects (s : State) : (s.endRun).redirects = s.redirects := rfl
@[simp] theorem State.endRun_unsettled (s : State) : (s.endRun).unsettled = s.unsettled := rfl
@[simp] theorem State.endRun_landed (s : State) : (s.endRun).landed = s.landed := rfl
@[simp] theorem State.endRun_ioLog (s : State) : (s.endRun).ioLog = s.ioLog := rfl
@[simp] theorem State.endRun_ioInputs (s : State) : (s.endRun).ioInputs = s.ioInputs := rfl
@[simp] theorem State.endRun_script (s : State) : (s.endRun).script = s.script := rfl
@[simp] theorem State.endRun_draws (s : State) : (s.endRun).draws = s.draws := rfl
@[simp] theorem State.endRun_params (s : State) : (s.endRun).params = s.params := rfl

/-! ### setPc -/

@[simp] theorem State.setPc_x (s : State) (a : Addr) : (s.setPc a).x = s.x := rfl
@[simp] theorem State.setPc_pc (s : State) (a : Addr) : (s.setPc a).pc = a := rfl
@[simp] theorem State.setPc_flagZ (s : State) (a : Addr) : (s.setPc a).flagZ = s.flagZ := rfl
@[simp] theorem State.setPc_flagS (s : State) (a : Addr) : (s.setPc a).flagS = s.flagS := rfl
@[simp] theorem State.setPc_flagU (s : State) (a : Addr) : (s.setPc a).flagU = s.flagU := rfl
@[simp] theorem State.setPc_xchg (s : State) (a : Addr) : (s.setPc a).xchg = s.xchg := rfl
@[simp] theorem State.setPc_f (s : State) (a : Addr) : (s.setPc a).f = s.f := rfl
@[simp] theorem State.setPc_d (s : State) (a : Addr) : (s.setPc a).d = s.d := rfl
@[simp] theorem State.setPc_v (s : State) (a : Addr) : (s.setPc a).v = s.v := rfl
@[simp] theorem State.setPc_acc (s : State) (a : Addr) : (s.setPc a).acc = s.acc := rfl
@[simp] theorem State.setPc_isram (s : State) (a : Addr) : (s.setPc a).isram = s.isram := rfl
@[simp] theorem State.setPc_dsram (s : State) (a : Addr) : (s.setPc a).dsram = s.dsram := rfl
@[simp] theorem State.setPc_cache (s : State) (a : Addr) : (s.setPc a).cache = s.cache := rfl
@[simp] theorem State.setPc_ram (s : State) (a : Addr) : (s.setPc a).ram = s.ram := rfl
@[simp] theorem State.setPc_rs (s : State) (a : Addr) : (s.setPc a).rs = s.rs := rfl
@[simp] theorem State.setPc_dmaq (s : State) (a : Addr) : (s.setPc a).dmaq = s.dmaq := rfl
@[simp] theorem State.setPc_status (s : State) (a : Addr) : (s.setPc a).status = s.status := rfl
@[simp] theorem State.setPc_redirects (s : State) (a : Addr) : (s.setPc a).redirects = s.redirects := rfl
@[simp] theorem State.setPc_unsettled (s : State) (a : Addr) : (s.setPc a).unsettled = s.unsettled := rfl
@[simp] theorem State.setPc_landed (s : State) (a : Addr) : (s.setPc a).landed = s.landed := rfl
@[simp] theorem State.setPc_ioLog (s : State) (a : Addr) : (s.setPc a).ioLog = s.ioLog := rfl
@[simp] theorem State.setPc_ioInputs (s : State) (a : Addr) : (s.setPc a).ioInputs = s.ioInputs := rfl
@[simp] theorem State.setPc_script (s : State) (a : Addr) : (s.setPc a).script = s.script := rfl
@[simp] theorem State.setPc_draws (s : State) (a : Addr) : (s.setPc a).draws = s.draws := rfl
@[simp] theorem State.setPc_params (s : State) (a : Addr) : (s.setPc a).params = s.params := rfl

/-! ### advance -/

@[simp] theorem State.advance_x (s : State) : (s.advance).x = s.x := rfl
@[simp] theorem State.advance_pc (s : State) : (s.advance).pc = s.nextPc := rfl
@[simp] theorem State.advance_flagZ (s : State) : (s.advance).flagZ = s.flagZ := rfl
@[simp] theorem State.advance_flagS (s : State) : (s.advance).flagS = s.flagS := rfl
@[simp] theorem State.advance_flagU (s : State) : (s.advance).flagU = s.flagU := rfl
@[simp] theorem State.advance_xchg (s : State) : (s.advance).xchg = s.xchg := rfl
@[simp] theorem State.advance_f (s : State) : (s.advance).f = s.f := rfl
@[simp] theorem State.advance_d (s : State) : (s.advance).d = s.d := rfl
@[simp] theorem State.advance_v (s : State) : (s.advance).v = s.v := rfl
@[simp] theorem State.advance_acc (s : State) : (s.advance).acc = s.acc := rfl
@[simp] theorem State.advance_isram (s : State) : (s.advance).isram = s.isram := rfl
@[simp] theorem State.advance_dsram (s : State) : (s.advance).dsram = s.dsram := rfl
@[simp] theorem State.advance_cache (s : State) : (s.advance).cache = s.cache := rfl
@[simp] theorem State.advance_ram (s : State) : (s.advance).ram = s.ram := rfl
@[simp] theorem State.advance_rs (s : State) : (s.advance).rs = s.rs := rfl
@[simp] theorem State.advance_dmaq (s : State) : (s.advance).dmaq = s.dmaq := rfl
@[simp] theorem State.advance_status (s : State) : (s.advance).status = s.status := rfl
@[simp] theorem State.advance_redirects (s : State) : (s.advance).redirects = s.redirects := rfl
@[simp] theorem State.advance_unsettled (s : State) : (s.advance).unsettled = s.unsettled := rfl
@[simp] theorem State.advance_landed (s : State) : (s.advance).landed = s.landed := rfl
@[simp] theorem State.advance_ioLog (s : State) : (s.advance).ioLog = s.ioLog := rfl
@[simp] theorem State.advance_ioInputs (s : State) : (s.advance).ioInputs = s.ioInputs := rfl
@[simp] theorem State.advance_script (s : State) : (s.advance).script = s.script := rfl
@[simp] theorem State.advance_draws (s : State) : (s.advance).draws = s.draws := rfl
@[simp] theorem State.advance_params (s : State) : (s.advance).params = s.params := rfl

/-! ### setRedirects -/

@[simp] theorem State.setRedirects_x (s : State) (l : List Redirect) : (s.setRedirects l).x = s.x := rfl
@[simp] theorem State.setRedirects_pc (s : State) (l : List Redirect) : (s.setRedirects l).pc = s.pc := rfl
@[simp] theorem State.setRedirects_flagZ (s : State) (l : List Redirect) : (s.setRedirects l).flagZ = s.flagZ := rfl
@[simp] theorem State.setRedirects_flagS (s : State) (l : List Redirect) : (s.setRedirects l).flagS = s.flagS := rfl
@[simp] theorem State.setRedirects_flagU (s : State) (l : List Redirect) : (s.setRedirects l).flagU = s.flagU := rfl
@[simp] theorem State.setRedirects_xchg (s : State) (l : List Redirect) : (s.setRedirects l).xchg = s.xchg := rfl
@[simp] theorem State.setRedirects_f (s : State) (l : List Redirect) : (s.setRedirects l).f = s.f := rfl
@[simp] theorem State.setRedirects_d (s : State) (l : List Redirect) : (s.setRedirects l).d = s.d := rfl
@[simp] theorem State.setRedirects_v (s : State) (l : List Redirect) : (s.setRedirects l).v = s.v := rfl
@[simp] theorem State.setRedirects_acc (s : State) (l : List Redirect) : (s.setRedirects l).acc = s.acc := rfl
@[simp] theorem State.setRedirects_isram (s : State) (l : List Redirect) : (s.setRedirects l).isram = s.isram := rfl
@[simp] theorem State.setRedirects_dsram (s : State) (l : List Redirect) : (s.setRedirects l).dsram = s.dsram := rfl
@[simp] theorem State.setRedirects_cache (s : State) (l : List Redirect) : (s.setRedirects l).cache = s.cache := rfl
@[simp] theorem State.setRedirects_ram (s : State) (l : List Redirect) : (s.setRedirects l).ram = s.ram := rfl
@[simp] theorem State.setRedirects_rs (s : State) (l : List Redirect) : (s.setRedirects l).rs = s.rs := rfl
@[simp] theorem State.setRedirects_dmaq (s : State) (l : List Redirect) : (s.setRedirects l).dmaq = s.dmaq := rfl
@[simp] theorem State.setRedirects_status (s : State) (l : List Redirect) : (s.setRedirects l).status = s.status := rfl
@[simp] theorem State.setRedirects_redirects (s : State) (l : List Redirect) : (s.setRedirects l).redirects = l := rfl
@[simp] theorem State.setRedirects_unsettled (s : State) (l : List Redirect) :
    (s.setRedirects l).unsettled = s.unsettled := rfl
@[simp] theorem State.setRedirects_landed (s : State) (l : List Redirect) : (s.setRedirects l).landed = s.landed := rfl
@[simp] theorem State.setRedirects_ioLog (s : State) (l : List Redirect) : (s.setRedirects l).ioLog = s.ioLog := rfl
@[simp] theorem State.setRedirects_ioInputs (s : State) (l : List Redirect) :
    (s.setRedirects l).ioInputs = s.ioInputs := rfl
@[simp] theorem State.setRedirects_script (s : State) (l : List Redirect) : (s.setRedirects l).script = s.script := rfl
@[simp] theorem State.setRedirects_draws (s : State) (l : List Redirect) : (s.setRedirects l).draws = s.draws := rfl
@[simp] theorem State.setRedirects_params (s : State) (l : List Redirect) : (s.setRedirects l).params = s.params := rfl

/-! ### endBundle -/

@[simp] theorem State.endBundle_x (s : State) (l : List Unsettled) : (s.endBundle l).x = s.x := rfl
@[simp] theorem State.endBundle_pc (s : State) (l : List Unsettled) :
    (s.endBundle l).pc = (s.redirects.find? fun r => r.bundles ≤ 1).elim s.pc fun r => r.target := rfl
@[simp] theorem State.endBundle_flagZ (s : State) (l : List Unsettled) : (s.endBundle l).flagZ = s.flagZ := rfl
@[simp] theorem State.endBundle_flagS (s : State) (l : List Unsettled) : (s.endBundle l).flagS = s.flagS := rfl
@[simp] theorem State.endBundle_flagU (s : State) (l : List Unsettled) : (s.endBundle l).flagU = s.flagU := rfl
@[simp] theorem State.endBundle_xchg (s : State) (l : List Unsettled) : (s.endBundle l).xchg = s.xchg := rfl
@[simp] theorem State.endBundle_f (s : State) (l : List Unsettled) : (s.endBundle l).f = s.f := rfl
@[simp] theorem State.endBundle_d (s : State) (l : List Unsettled) : (s.endBundle l).d = s.d := rfl
@[simp] theorem State.endBundle_v (s : State) (l : List Unsettled) : (s.endBundle l).v = s.v := rfl
@[simp] theorem State.endBundle_acc (s : State) (l : List Unsettled) : (s.endBundle l).acc = s.acc := rfl
@[simp] theorem State.endBundle_isram (s : State) (l : List Unsettled) : (s.endBundle l).isram = s.isram := rfl
@[simp] theorem State.endBundle_dsram (s : State) (l : List Unsettled) : (s.endBundle l).dsram = s.dsram := rfl
@[simp] theorem State.endBundle_cache (s : State) (l : List Unsettled) : (s.endBundle l).cache = s.cache := rfl
@[simp] theorem State.endBundle_ram (s : State) (l : List Unsettled) : (s.endBundle l).ram = s.ram := rfl
@[simp] theorem State.endBundle_rs (s : State) (l : List Unsettled) : (s.endBundle l).rs = s.rs := rfl
@[simp] theorem State.endBundle_dmaq (s : State) (l : List Unsettled) : (s.endBundle l).dmaq = s.dmaq := rfl
@[simp] theorem State.endBundle_status (s : State) (l : List Unsettled) : (s.endBundle l).status = s.status := rfl
@[simp] theorem State.endBundle_redirects (s : State) (l : List Unsettled) :
    (s.endBundle l).redirects =
    (s.redirects.filter fun r => 1 < r.bundles).map fun r => ⟨r.bundles - 1, r.target⟩ := rfl
@[simp] theorem State.endBundle_unsettled (s : State) (l : List Unsettled) :
    (s.endBundle l).unsettled =
    ((s.unsettled.filter fun u => 1 < u.bundles).map fun u => ⟨u.loc, u.bundles - 1⟩) ++ l := rfl
@[simp] theorem State.endBundle_landed (s : State) (l : List Unsettled) : (s.endBundle l).landed = s.landed := rfl
@[simp] theorem State.endBundle_ioLog (s : State) (l : List Unsettled) : (s.endBundle l).ioLog = s.ioLog := rfl
@[simp] theorem State.endBundle_ioInputs (s : State) (l : List Unsettled) :
    (s.endBundle l).ioInputs = s.ioInputs := rfl
@[simp] theorem State.endBundle_script (s : State) (l : List Unsettled) : (s.endBundle l).script = s.script := rfl
@[simp] theorem State.endBundle_draws (s : State) (l : List Unsettled) : (s.endBundle l).draws = s.draws := rfl
@[simp] theorem State.endBundle_params (s : State) (l : List Unsettled) : (s.endBundle l).params = s.params := rfl

/-! ### setRs -/

@[simp] theorem State.setRs_x (s : State) (l : List Addr) : (s.setRs l).x = s.x := rfl
@[simp] theorem State.setRs_pc (s : State) (l : List Addr) : (s.setRs l).pc = s.pc := rfl
@[simp] theorem State.setRs_flagZ (s : State) (l : List Addr) : (s.setRs l).flagZ = s.flagZ := rfl
@[simp] theorem State.setRs_flagS (s : State) (l : List Addr) : (s.setRs l).flagS = s.flagS := rfl
@[simp] theorem State.setRs_flagU (s : State) (l : List Addr) : (s.setRs l).flagU = s.flagU := rfl
@[simp] theorem State.setRs_xchg (s : State) (l : List Addr) : (s.setRs l).xchg = s.xchg := rfl
@[simp] theorem State.setRs_f (s : State) (l : List Addr) : (s.setRs l).f = s.f := rfl
@[simp] theorem State.setRs_d (s : State) (l : List Addr) : (s.setRs l).d = s.d := rfl
@[simp] theorem State.setRs_v (s : State) (l : List Addr) : (s.setRs l).v = s.v := rfl
@[simp] theorem State.setRs_acc (s : State) (l : List Addr) : (s.setRs l).acc = s.acc := rfl
@[simp] theorem State.setRs_isram (s : State) (l : List Addr) : (s.setRs l).isram = s.isram := rfl
@[simp] theorem State.setRs_dsram (s : State) (l : List Addr) : (s.setRs l).dsram = s.dsram := rfl
@[simp] theorem State.setRs_cache (s : State) (l : List Addr) : (s.setRs l).cache = s.cache := rfl
@[simp] theorem State.setRs_ram (s : State) (l : List Addr) : (s.setRs l).ram = s.ram := rfl
@[simp] theorem State.setRs_rs (s : State) (l : List Addr) : (s.setRs l).rs = l := rfl
@[simp] theorem State.setRs_dmaq (s : State) (l : List Addr) : (s.setRs l).dmaq = s.dmaq := rfl
@[simp] theorem State.setRs_status (s : State) (l : List Addr) : (s.setRs l).status = s.status := rfl
@[simp] theorem State.setRs_redirects (s : State) (l : List Addr) : (s.setRs l).redirects = s.redirects := rfl
@[simp] theorem State.setRs_unsettled (s : State) (l : List Addr) : (s.setRs l).unsettled = s.unsettled := rfl
@[simp] theorem State.setRs_landed (s : State) (l : List Addr) : (s.setRs l).landed = s.landed := rfl
@[simp] theorem State.setRs_ioLog (s : State) (l : List Addr) : (s.setRs l).ioLog = s.ioLog := rfl
@[simp] theorem State.setRs_ioInputs (s : State) (l : List Addr) : (s.setRs l).ioInputs = s.ioInputs := rfl
@[simp] theorem State.setRs_script (s : State) (l : List Addr) : (s.setRs l).script = s.script := rfl
@[simp] theorem State.setRs_draws (s : State) (l : List Addr) : (s.setRs l).draws = s.draws := rfl
@[simp] theorem State.setRs_params (s : State) (l : List Addr) : (s.setRs l).params = s.params := rfl

/-! ### logIo -/

@[simp] theorem State.logIo_x (s : State) (e : IoEvent) : (s.logIo e).x = s.x := rfl
@[simp] theorem State.logIo_pc (s : State) (e : IoEvent) : (s.logIo e).pc = s.pc := rfl
@[simp] theorem State.logIo_flagZ (s : State) (e : IoEvent) : (s.logIo e).flagZ = s.flagZ := rfl
@[simp] theorem State.logIo_flagS (s : State) (e : IoEvent) : (s.logIo e).flagS = s.flagS := rfl
@[simp] theorem State.logIo_flagU (s : State) (e : IoEvent) : (s.logIo e).flagU = s.flagU := rfl
@[simp] theorem State.logIo_xchg (s : State) (e : IoEvent) : (s.logIo e).xchg = s.xchg := rfl
@[simp] theorem State.logIo_f (s : State) (e : IoEvent) : (s.logIo e).f = s.f := rfl
@[simp] theorem State.logIo_d (s : State) (e : IoEvent) : (s.logIo e).d = s.d := rfl
@[simp] theorem State.logIo_v (s : State) (e : IoEvent) : (s.logIo e).v = s.v := rfl
@[simp] theorem State.logIo_acc (s : State) (e : IoEvent) : (s.logIo e).acc = s.acc := rfl
@[simp] theorem State.logIo_isram (s : State) (e : IoEvent) : (s.logIo e).isram = s.isram := rfl
@[simp] theorem State.logIo_dsram (s : State) (e : IoEvent) : (s.logIo e).dsram = s.dsram := rfl
@[simp] theorem State.logIo_cache (s : State) (e : IoEvent) : (s.logIo e).cache = s.cache := rfl
@[simp] theorem State.logIo_ram (s : State) (e : IoEvent) : (s.logIo e).ram = s.ram := rfl
@[simp] theorem State.logIo_rs (s : State) (e : IoEvent) : (s.logIo e).rs = s.rs := rfl
@[simp] theorem State.logIo_dmaq (s : State) (e : IoEvent) : (s.logIo e).dmaq = s.dmaq := rfl
@[simp] theorem State.logIo_status (s : State) (e : IoEvent) : (s.logIo e).status = s.status := rfl
@[simp] theorem State.logIo_redirects (s : State) (e : IoEvent) : (s.logIo e).redirects = s.redirects := rfl
@[simp] theorem State.logIo_unsettled (s : State) (e : IoEvent) : (s.logIo e).unsettled = s.unsettled := rfl
@[simp] theorem State.logIo_landed (s : State) (e : IoEvent) : (s.logIo e).landed = s.landed := rfl
@[simp] theorem State.logIo_ioLog (s : State) (e : IoEvent) : (s.logIo e).ioLog = s.ioLog ++ [e] := rfl
@[simp] theorem State.logIo_ioInputs (s : State) (e : IoEvent) : (s.logIo e).ioInputs = s.ioInputs := rfl
@[simp] theorem State.logIo_script (s : State) (e : IoEvent) : (s.logIo e).script = s.script := rfl
@[simp] theorem State.logIo_draws (s : State) (e : IoEvent) : (s.logIo e).draws = s.draws := rfl
@[simp] theorem State.logIo_params (s : State) (e : IoEvent) : (s.logIo e).params = s.params := rfl

/-! ### ioTaken -/

@[simp] theorem State.ioTaken_x (s : State) : (s.ioTaken).x = s.x := rfl
@[simp] theorem State.ioTaken_pc (s : State) : (s.ioTaken).pc = s.pc := rfl
@[simp] theorem State.ioTaken_flagZ (s : State) : (s.ioTaken).flagZ = s.flagZ := rfl
@[simp] theorem State.ioTaken_flagS (s : State) : (s.ioTaken).flagS = s.flagS := rfl
@[simp] theorem State.ioTaken_flagU (s : State) : (s.ioTaken).flagU = s.flagU := rfl
@[simp] theorem State.ioTaken_xchg (s : State) : (s.ioTaken).xchg = s.xchg := rfl
@[simp] theorem State.ioTaken_f (s : State) : (s.ioTaken).f = s.f := rfl
@[simp] theorem State.ioTaken_d (s : State) : (s.ioTaken).d = s.d := rfl
@[simp] theorem State.ioTaken_v (s : State) : (s.ioTaken).v = s.v := rfl
@[simp] theorem State.ioTaken_acc (s : State) : (s.ioTaken).acc = s.acc := rfl
@[simp] theorem State.ioTaken_isram (s : State) : (s.ioTaken).isram = s.isram := rfl
@[simp] theorem State.ioTaken_dsram (s : State) : (s.ioTaken).dsram = s.dsram := rfl
@[simp] theorem State.ioTaken_cache (s : State) : (s.ioTaken).cache = s.cache := rfl
@[simp] theorem State.ioTaken_ram (s : State) : (s.ioTaken).ram = s.ram := rfl
@[simp] theorem State.ioTaken_rs (s : State) : (s.ioTaken).rs = s.rs := rfl
@[simp] theorem State.ioTaken_dmaq (s : State) : (s.ioTaken).dmaq = s.dmaq := rfl
@[simp] theorem State.ioTaken_status (s : State) : (s.ioTaken).status = s.status := rfl
@[simp] theorem State.ioTaken_redirects (s : State) : (s.ioTaken).redirects = s.redirects := rfl
@[simp] theorem State.ioTaken_unsettled (s : State) : (s.ioTaken).unsettled = s.unsettled := rfl
@[simp] theorem State.ioTaken_landed (s : State) : (s.ioTaken).landed = s.landed := rfl
@[simp] theorem State.ioTaken_ioLog (s : State) : (s.ioTaken).ioLog = s.ioLog := rfl
@[simp] theorem State.ioTaken_ioInputs (s : State) : (s.ioTaken).ioInputs = s.ioInputs.tail := rfl
@[simp] theorem State.ioTaken_script (s : State) : (s.ioTaken).script = s.script := rfl
@[simp] theorem State.ioTaken_draws (s : State) : (s.ioTaken).draws = s.draws + 1 := rfl
@[simp] theorem State.ioTaken_params (s : State) : (s.ioTaken).params = s.params := rfl

/-! ### setDmaq -/

@[simp] theorem State.setDmaq_x (s : State) (q : List Transfer) : (s.setDmaq q).x = s.x := rfl
@[simp] theorem State.setDmaq_pc (s : State) (q : List Transfer) : (s.setDmaq q).pc = s.pc := rfl
@[simp] theorem State.setDmaq_flagZ (s : State) (q : List Transfer) : (s.setDmaq q).flagZ = s.flagZ := rfl
@[simp] theorem State.setDmaq_flagS (s : State) (q : List Transfer) : (s.setDmaq q).flagS = s.flagS := rfl
@[simp] theorem State.setDmaq_flagU (s : State) (q : List Transfer) : (s.setDmaq q).flagU = s.flagU := rfl
@[simp] theorem State.setDmaq_xchg (s : State) (q : List Transfer) : (s.setDmaq q).xchg = s.xchg := rfl
@[simp] theorem State.setDmaq_f (s : State) (q : List Transfer) : (s.setDmaq q).f = s.f := rfl
@[simp] theorem State.setDmaq_d (s : State) (q : List Transfer) : (s.setDmaq q).d = s.d := rfl
@[simp] theorem State.setDmaq_v (s : State) (q : List Transfer) : (s.setDmaq q).v = s.v := rfl
@[simp] theorem State.setDmaq_acc (s : State) (q : List Transfer) : (s.setDmaq q).acc = s.acc := rfl
@[simp] theorem State.setDmaq_isram (s : State) (q : List Transfer) : (s.setDmaq q).isram = s.isram := rfl
@[simp] theorem State.setDmaq_dsram (s : State) (q : List Transfer) : (s.setDmaq q).dsram = s.dsram := rfl
@[simp] theorem State.setDmaq_cache (s : State) (q : List Transfer) : (s.setDmaq q).cache = s.cache := rfl
@[simp] theorem State.setDmaq_ram (s : State) (q : List Transfer) : (s.setDmaq q).ram = s.ram := rfl
@[simp] theorem State.setDmaq_rs (s : State) (q : List Transfer) : (s.setDmaq q).rs = s.rs := rfl
@[simp] theorem State.setDmaq_dmaq (s : State) (q : List Transfer) : (s.setDmaq q).dmaq = q := rfl
@[simp] theorem State.setDmaq_status (s : State) (q : List Transfer) : (s.setDmaq q).status = s.status := rfl
@[simp] theorem State.setDmaq_redirects (s : State) (q : List Transfer) : (s.setDmaq q).redirects = s.redirects := rfl
@[simp] theorem State.setDmaq_unsettled (s : State) (q : List Transfer) : (s.setDmaq q).unsettled = s.unsettled := rfl
@[simp] theorem State.setDmaq_landed (s : State) (q : List Transfer) : (s.setDmaq q).landed = s.landed := rfl
@[simp] theorem State.setDmaq_ioLog (s : State) (q : List Transfer) : (s.setDmaq q).ioLog = s.ioLog := rfl
@[simp] theorem State.setDmaq_ioInputs (s : State) (q : List Transfer) : (s.setDmaq q).ioInputs = s.ioInputs := rfl
@[simp] theorem State.setDmaq_script (s : State) (q : List Transfer) : (s.setDmaq q).script = s.script := rfl
@[simp] theorem State.setDmaq_draws (s : State) (q : List Transfer) : (s.setDmaq q).draws = s.draws := rfl
@[simp] theorem State.setDmaq_params (s : State) (q : List Transfer) : (s.setDmaq q).params = s.params := rfl

/-! ### setLanded -/

@[simp] theorem State.setLanded_x (s : State) (q : List Transfer) : (s.setLanded q).x = s.x := rfl
@[simp] theorem State.setLanded_pc (s : State) (q : List Transfer) : (s.setLanded q).pc = s.pc := rfl
@[simp] theorem State.setLanded_flagZ (s : State) (q : List Transfer) : (s.setLanded q).flagZ = s.flagZ := rfl
@[simp] theorem State.setLanded_flagS (s : State) (q : List Transfer) : (s.setLanded q).flagS = s.flagS := rfl
@[simp] theorem State.setLanded_flagU (s : State) (q : List Transfer) : (s.setLanded q).flagU = s.flagU := rfl
@[simp] theorem State.setLanded_xchg (s : State) (q : List Transfer) : (s.setLanded q).xchg = s.xchg := rfl
@[simp] theorem State.setLanded_f (s : State) (q : List Transfer) : (s.setLanded q).f = s.f := rfl
@[simp] theorem State.setLanded_d (s : State) (q : List Transfer) : (s.setLanded q).d = s.d := rfl
@[simp] theorem State.setLanded_v (s : State) (q : List Transfer) : (s.setLanded q).v = s.v := rfl
@[simp] theorem State.setLanded_acc (s : State) (q : List Transfer) : (s.setLanded q).acc = s.acc := rfl
@[simp] theorem State.setLanded_isram (s : State) (q : List Transfer) : (s.setLanded q).isram = s.isram := rfl
@[simp] theorem State.setLanded_dsram (s : State) (q : List Transfer) : (s.setLanded q).dsram = s.dsram := rfl
@[simp] theorem State.setLanded_cache (s : State) (q : List Transfer) : (s.setLanded q).cache = s.cache := rfl
@[simp] theorem State.setLanded_ram (s : State) (q : List Transfer) : (s.setLanded q).ram = s.ram := rfl
@[simp] theorem State.setLanded_rs (s : State) (q : List Transfer) : (s.setLanded q).rs = s.rs := rfl
@[simp] theorem State.setLanded_dmaq (s : State) (q : List Transfer) : (s.setLanded q).dmaq = s.dmaq := rfl
@[simp] theorem State.setLanded_status (s : State) (q : List Transfer) : (s.setLanded q).status = s.status := rfl
@[simp] theorem State.setLanded_redirects (s : State) (q : List Transfer) :
    (s.setLanded q).redirects = s.redirects := rfl
@[simp] theorem State.setLanded_unsettled (s : State) (q : List Transfer) :
    (s.setLanded q).unsettled = s.unsettled := rfl
@[simp] theorem State.setLanded_landed (s : State) (q : List Transfer) : (s.setLanded q).landed = q := rfl
@[simp] theorem State.setLanded_ioLog (s : State) (q : List Transfer) : (s.setLanded q).ioLog = s.ioLog := rfl
@[simp] theorem State.setLanded_ioInputs (s : State) (q : List Transfer) : (s.setLanded q).ioInputs = s.ioInputs := rfl
@[simp] theorem State.setLanded_script (s : State) (q : List Transfer) : (s.setLanded q).script = s.script := rfl
@[simp] theorem State.setLanded_draws (s : State) (q : List Transfer) : (s.setLanded q).draws = s.draws := rfl
@[simp] theorem State.setLanded_params (s : State) (q : List Transfer) : (s.setLanded q).params = s.params := rfl

/-! ### takeFault -/

@[simp] theorem State.takeFault_x (s : State) (e : Fault) (slot : Option Nat) : (s.takeFault e slot).x = s.x := rfl
@[simp] theorem State.takeFault_pc (s : State) (e : Fault) (slot : Option Nat) : (s.takeFault e slot).pc = s.pc := rfl
@[simp] theorem State.takeFault_flagZ (s : State) (e : Fault) (slot : Option Nat) :
    (s.takeFault e slot).flagZ = s.flagZ := rfl
@[simp] theorem State.takeFault_flagS (s : State) (e : Fault) (slot : Option Nat) :
    (s.takeFault e slot).flagS = s.flagS := rfl
@[simp] theorem State.takeFault_flagU (s : State) (e : Fault) (slot : Option Nat) :
    (s.takeFault e slot).flagU = s.flagU := rfl
@[simp] theorem State.takeFault_xchg (s : State) (e : Fault) (slot : Option Nat) :
    (s.takeFault e slot).xchg = s.xchg := rfl
@[simp] theorem State.takeFault_f (s : State) (e : Fault) (slot : Option Nat) : (s.takeFault e slot).f = s.f := rfl
@[simp] theorem State.takeFault_d (s : State) (e : Fault) (slot : Option Nat) : (s.takeFault e slot).d = s.d := rfl
@[simp] theorem State.takeFault_v (s : State) (e : Fault) (slot : Option Nat) : (s.takeFault e slot).v = s.v := rfl
@[simp] theorem State.takeFault_acc (s : State) (e : Fault) (slot : Option Nat) :
    (s.takeFault e slot).acc = s.acc := rfl
@[simp] theorem State.takeFault_isram (s : State) (e : Fault) (slot : Option Nat) :
    (s.takeFault e slot).isram = s.isram := rfl
@[simp] theorem State.takeFault_dsram (s : State) (e : Fault) (slot : Option Nat) :
    (s.takeFault e slot).dsram = s.dsram := rfl
@[simp] theorem State.takeFault_cache (s : State) (e : Fault) (slot : Option Nat) :
    (s.takeFault e slot).cache = s.cache := rfl
@[simp] theorem State.takeFault_ram (s : State) (e : Fault) (slot : Option Nat) :
    (s.takeFault e slot).ram = s.ram := rfl
@[simp] theorem State.takeFault_rs (s : State) (e : Fault) (slot : Option Nat) : (s.takeFault e slot).rs = s.rs := rfl
@[simp] theorem State.takeFault_dmaq (s : State) (e : Fault) (slot : Option Nat) :
    (s.takeFault e slot).dmaq = s.dmaq := rfl
@[simp] theorem State.takeFault_status (s : State) (e : Fault) (slot : Option Nat) :
    (s.takeFault e slot).status = .faulted e s.pc slot := rfl
@[simp] theorem State.takeFault_redirects (s : State) (e : Fault) (slot : Option Nat) :
    (s.takeFault e slot).redirects = s.redirects := rfl
@[simp] theorem State.takeFault_unsettled (s : State) (e : Fault) (slot : Option Nat) :
    (s.takeFault e slot).unsettled = s.unsettled := rfl
@[simp] theorem State.takeFault_landed (s : State) (e : Fault) (slot : Option Nat) :
    (s.takeFault e slot).landed = s.landed := rfl
@[simp] theorem State.takeFault_ioLog (s : State) (e : Fault) (slot : Option Nat) :
    (s.takeFault e slot).ioLog = s.ioLog := rfl
@[simp] theorem State.takeFault_ioInputs (s : State) (e : Fault) (slot : Option Nat) :
    (s.takeFault e slot).ioInputs = s.ioInputs := rfl
@[simp] theorem State.takeFault_script (s : State) (e : Fault) (slot : Option Nat) :
    (s.takeFault e slot).script = s.script := rfl
@[simp] theorem State.takeFault_draws (s : State) (e : Fault) (slot : Option Nat) :
    (s.takeFault e slot).draws = s.draws := rfl
@[simp] theorem State.takeFault_params (s : State) (e : Fault) (slot : Option Nat) :
    (s.takeFault e slot).params = s.params := rfl

/-! ### takeRefusal -/

@[simp] theorem State.takeRefusal_x (s : State) (e : Refusal) : (s.takeRefusal e).x = s.x := rfl
@[simp] theorem State.takeRefusal_pc (s : State) (e : Refusal) : (s.takeRefusal e).pc = s.pc := rfl
@[simp] theorem State.takeRefusal_flagZ (s : State) (e : Refusal) : (s.takeRefusal e).flagZ = s.flagZ := rfl
@[simp] theorem State.takeRefusal_flagS (s : State) (e : Refusal) : (s.takeRefusal e).flagS = s.flagS := rfl
@[simp] theorem State.takeRefusal_flagU (s : State) (e : Refusal) : (s.takeRefusal e).flagU = s.flagU := rfl
@[simp] theorem State.takeRefusal_xchg (s : State) (e : Refusal) : (s.takeRefusal e).xchg = s.xchg := rfl
@[simp] theorem State.takeRefusal_f (s : State) (e : Refusal) : (s.takeRefusal e).f = s.f := rfl
@[simp] theorem State.takeRefusal_d (s : State) (e : Refusal) : (s.takeRefusal e).d = s.d := rfl
@[simp] theorem State.takeRefusal_v (s : State) (e : Refusal) : (s.takeRefusal e).v = s.v := rfl
@[simp] theorem State.takeRefusal_acc (s : State) (e : Refusal) : (s.takeRefusal e).acc = s.acc := rfl
@[simp] theorem State.takeRefusal_isram (s : State) (e : Refusal) : (s.takeRefusal e).isram = s.isram := rfl
@[simp] theorem State.takeRefusal_dsram (s : State) (e : Refusal) : (s.takeRefusal e).dsram = s.dsram := rfl
@[simp] theorem State.takeRefusal_cache (s : State) (e : Refusal) : (s.takeRefusal e).cache = s.cache := rfl
@[simp] theorem State.takeRefusal_ram (s : State) (e : Refusal) : (s.takeRefusal e).ram = s.ram := rfl
@[simp] theorem State.takeRefusal_rs (s : State) (e : Refusal) : (s.takeRefusal e).rs = s.rs := rfl
@[simp] theorem State.takeRefusal_dmaq (s : State) (e : Refusal) : (s.takeRefusal e).dmaq = s.dmaq := rfl
@[simp] theorem State.takeRefusal_status (s : State) (e : Refusal) : (s.takeRefusal e).status = .refused e := rfl
@[simp] theorem State.takeRefusal_redirects (s : State) (e : Refusal) :
    (s.takeRefusal e).redirects = s.redirects := rfl
@[simp] theorem State.takeRefusal_unsettled (s : State) (e : Refusal) :
    (s.takeRefusal e).unsettled = s.unsettled := rfl
@[simp] theorem State.takeRefusal_landed (s : State) (e : Refusal) : (s.takeRefusal e).landed = s.landed := rfl
@[simp] theorem State.takeRefusal_ioLog (s : State) (e : Refusal) : (s.takeRefusal e).ioLog = s.ioLog := rfl
@[simp] theorem State.takeRefusal_ioInputs (s : State) (e : Refusal) : (s.takeRefusal e).ioInputs = s.ioInputs := rfl
@[simp] theorem State.takeRefusal_script (s : State) (e : Refusal) : (s.takeRefusal e).script = s.script := rfl
@[simp] theorem State.takeRefusal_draws (s : State) (e : Refusal) : (s.takeRefusal e).draws = s.draws := rfl
@[simp] theorem State.takeRefusal_params (s : State) (e : Refusal) : (s.takeRefusal e).params = s.params := rfl

/-! ### setMem -/

@[simp] theorem State.setMem_x (s : State) (sp : Space) (m : Memory) : (s.setMem sp m).x = s.x := by cases sp <;> rfl
@[simp] theorem State.setMem_pc (s : State) (sp : Space) (m : Memory) :
    (s.setMem sp m).pc = s.pc := by
  cases sp <;> rfl
@[simp] theorem State.setMem_flagZ (s : State) (sp : Space) (m : Memory) :
    (s.setMem sp m).flagZ = s.flagZ := by
  cases sp <;> rfl
@[simp] theorem State.setMem_flagS (s : State) (sp : Space) (m : Memory) :
    (s.setMem sp m).flagS = s.flagS := by
  cases sp <;> rfl
@[simp] theorem State.setMem_flagU (s : State) (sp : Space) (m : Memory) :
    (s.setMem sp m).flagU = s.flagU := by
  cases sp <;> rfl
@[simp] theorem State.setMem_xchg (s : State) (sp : Space) (m : Memory) :
    (s.setMem sp m).xchg = s.xchg := by
  cases sp <;> rfl
@[simp] theorem State.setMem_f (s : State) (sp : Space) (m : Memory) : (s.setMem sp m).f = s.f := by cases sp <;> rfl
@[simp] theorem State.setMem_d (s : State) (sp : Space) (m : Memory) : (s.setMem sp m).d = s.d := by cases sp <;> rfl
@[simp] theorem State.setMem_v (s : State) (sp : Space) (m : Memory) : (s.setMem sp m).v = s.v := by cases sp <;> rfl
@[simp] theorem State.setMem_acc (s : State) (sp : Space) (m : Memory) :
    (s.setMem sp m).acc = s.acc := by
  cases sp <;> rfl
@[simp] theorem State.setMem_isram (s : State) (sp : Space) (m : Memory) :
    (s.setMem sp m).isram = if sp = .isram then m else s.isram := by
  cases sp <;> rfl
@[simp] theorem State.setMem_dsram (s : State) (sp : Space) (m : Memory) :
    (s.setMem sp m).dsram = if sp = .dsram then m else s.dsram := by
  cases sp <;> rfl
@[simp] theorem State.setMem_cache (s : State) (sp : Space) (m : Memory) :
    (s.setMem sp m).cache = if sp = .cache then m else s.cache := by
  cases sp <;> rfl
@[simp] theorem State.setMem_ram (s : State) (sp : Space) (m : Memory) :
    (s.setMem sp m).ram = if sp = .ram then m else s.ram := by
  cases sp <;> rfl
@[simp] theorem State.setMem_rs (s : State) (sp : Space) (m : Memory) :
    (s.setMem sp m).rs = s.rs := by
  cases sp <;> rfl
@[simp] theorem State.setMem_dmaq (s : State) (sp : Space) (m : Memory) :
    (s.setMem sp m).dmaq = s.dmaq := by
  cases sp <;> rfl
@[simp] theorem State.setMem_status (s : State) (sp : Space) (m : Memory) :
    (s.setMem sp m).status = s.status := by
  cases sp <;> rfl
@[simp] theorem State.setMem_redirects (s : State) (sp : Space) (m : Memory) :
    (s.setMem sp m).redirects = s.redirects := by
  cases sp <;> rfl
@[simp] theorem State.setMem_unsettled (s : State) (sp : Space) (m : Memory) :
    (s.setMem sp m).unsettled = s.unsettled := by
  cases sp <;> rfl
@[simp] theorem State.setMem_landed (s : State) (sp : Space) (m : Memory) :
    (s.setMem sp m).landed = s.landed := by
  cases sp <;> rfl
@[simp] theorem State.setMem_ioLog (s : State) (sp : Space) (m : Memory) :
    (s.setMem sp m).ioLog = s.ioLog := by
  cases sp <;> rfl
@[simp] theorem State.setMem_ioInputs (s : State) (sp : Space) (m : Memory) :
    (s.setMem sp m).ioInputs = s.ioInputs := by
  cases sp <;> rfl
@[simp] theorem State.setMem_script (s : State) (sp : Space) (m : Memory) :
    (s.setMem sp m).script = s.script := by
  cases sp <;> rfl
@[simp] theorem State.setMem_draws (s : State) (sp : Space) (m : Memory) :
    (s.setMem sp m).draws = s.draws := by
  cases sp <;> rfl
@[simp] theorem State.setMem_params (s : State) (sp : Space) (m : Memory) :
    (s.setMem sp m).params = s.params := by
  cases sp <;> rfl

/-! ### jump -/

@[simp] theorem State.jump_x (s : State) (a : Addr) : (s.jump a).x = s.x := by unfold State.jump; split <;> rfl
@[simp] theorem State.jump_pc (s : State) (a : Addr) :
    (s.jump a).pc = if s.params.branchDelay = 0 then a else s.nextPc := by
  unfold State.jump; split <;> rfl
@[simp] theorem State.jump_flagZ (s : State) (a : Addr) :
    (s.jump a).flagZ = s.flagZ := by
  unfold State.jump; split <;> rfl
@[simp] theorem State.jump_flagS (s : State) (a : Addr) :
    (s.jump a).flagS = s.flagS := by
  unfold State.jump; split <;> rfl
@[simp] theorem State.jump_flagU (s : State) (a : Addr) :
    (s.jump a).flagU = s.flagU := by
  unfold State.jump; split <;> rfl
@[simp] theorem State.jump_xchg (s : State) (a : Addr) :
    (s.jump a).xchg = s.xchg := by
  unfold State.jump; split <;> rfl
@[simp] theorem State.jump_f (s : State) (a : Addr) : (s.jump a).f = s.f := by unfold State.jump; split <;> rfl
@[simp] theorem State.jump_d (s : State) (a : Addr) : (s.jump a).d = s.d := by unfold State.jump; split <;> rfl
@[simp] theorem State.jump_v (s : State) (a : Addr) : (s.jump a).v = s.v := by unfold State.jump; split <;> rfl
@[simp] theorem State.jump_acc (s : State) (a : Addr) : (s.jump a).acc = s.acc := by unfold State.jump; split <;> rfl
@[simp] theorem State.jump_isram (s : State) (a : Addr) :
    (s.jump a).isram = s.isram := by
  unfold State.jump; split <;> rfl
@[simp] theorem State.jump_dsram (s : State) (a : Addr) :
    (s.jump a).dsram = s.dsram := by
  unfold State.jump; split <;> rfl
@[simp] theorem State.jump_cache (s : State) (a : Addr) :
    (s.jump a).cache = s.cache := by
  unfold State.jump; split <;> rfl
@[simp] theorem State.jump_ram (s : State) (a : Addr) : (s.jump a).ram = s.ram := by unfold State.jump; split <;> rfl
@[simp] theorem State.jump_rs (s : State) (a : Addr) : (s.jump a).rs = s.rs := by unfold State.jump; split <;> rfl
@[simp] theorem State.jump_dmaq (s : State) (a : Addr) :
    (s.jump a).dmaq = s.dmaq := by
  unfold State.jump; split <;> rfl
@[simp] theorem State.jump_status (s : State) (a : Addr) :
    (s.jump a).status = s.status := by
  unfold State.jump; split <;> rfl
@[simp] theorem State.jump_redirects (s : State) (a : Addr) :
    (s.jump a).redirects =
    if s.params.branchDelay = 0 then s.redirects else s.redirects ++ [⟨s.params.branchDelay + 1, a⟩] := by
  unfold State.jump; split <;> rfl
@[simp] theorem State.jump_unsettled (s : State) (a : Addr) :
    (s.jump a).unsettled = s.unsettled := by
  unfold State.jump; split <;> rfl
@[simp] theorem State.jump_landed (s : State) (a : Addr) :
    (s.jump a).landed = s.landed := by
  unfold State.jump; split <;> rfl
@[simp] theorem State.jump_ioLog (s : State) (a : Addr) :
    (s.jump a).ioLog = s.ioLog := by
  unfold State.jump; split <;> rfl
@[simp] theorem State.jump_ioInputs (s : State) (a : Addr) :
    (s.jump a).ioInputs = s.ioInputs := by
  unfold State.jump; split <;> rfl
@[simp] theorem State.jump_script (s : State) (a : Addr) :
    (s.jump a).script = s.script := by
  unfold State.jump; split <;> rfl
@[simp] theorem State.jump_draws (s : State) (a : Addr) :
    (s.jump a).draws = s.draws := by
  unfold State.jump; split <;> rfl
@[simp] theorem State.jump_params (s : State) (a : Addr) :
    (s.jump a).params = s.params := by
  unfold State.jump; split <;> rfl

/-! ### The script -/

@[simp] theorem State.pickTaken_x (s : State) : (s.pickTaken).x = s.x := by unfold State.pickTaken; split <;> rfl
@[simp] theorem State.pickTaken_pc (s : State) : (s.pickTaken).pc = s.pc := by unfold State.pickTaken; split <;> rfl
@[simp] theorem State.pickTaken_flagZ (s : State) :
    (s.pickTaken).flagZ = s.flagZ := by
  unfold State.pickTaken; split <;> rfl
@[simp] theorem State.pickTaken_flagS (s : State) :
    (s.pickTaken).flagS = s.flagS := by
  unfold State.pickTaken; split <;> rfl
@[simp] theorem State.pickTaken_flagU (s : State) :
    (s.pickTaken).flagU = s.flagU := by
  unfold State.pickTaken; split <;> rfl
@[simp] theorem State.pickTaken_xchg (s : State) :
    (s.pickTaken).xchg = s.xchg := by
  unfold State.pickTaken; split <;> rfl
@[simp] theorem State.pickTaken_f (s : State) : (s.pickTaken).f = s.f := by unfold State.pickTaken; split <;> rfl
@[simp] theorem State.pickTaken_d (s : State) : (s.pickTaken).d = s.d := by unfold State.pickTaken; split <;> rfl
@[simp] theorem State.pickTaken_v (s : State) : (s.pickTaken).v = s.v := by unfold State.pickTaken; split <;> rfl
@[simp] theorem State.pickTaken_acc (s : State) : (s.pickTaken).acc = s.acc := by unfold State.pickTaken; split <;> rfl
@[simp] theorem State.pickTaken_isram (s : State) :
    (s.pickTaken).isram = s.isram := by
  unfold State.pickTaken; split <;> rfl
@[simp] theorem State.pickTaken_dsram (s : State) :
    (s.pickTaken).dsram = s.dsram := by
  unfold State.pickTaken; split <;> rfl
@[simp] theorem State.pickTaken_cache (s : State) :
    (s.pickTaken).cache = s.cache := by
  unfold State.pickTaken; split <;> rfl
@[simp] theorem State.pickTaken_ram (s : State) : (s.pickTaken).ram = s.ram := by unfold State.pickTaken; split <;> rfl
@[simp] theorem State.pickTaken_rs (s : State) : (s.pickTaken).rs = s.rs := by unfold State.pickTaken; split <;> rfl
@[simp] theorem State.pickTaken_dmaq (s : State) :
    (s.pickTaken).dmaq = s.dmaq := by
  unfold State.pickTaken; split <;> rfl
@[simp] theorem State.pickTaken_status (s : State) :
    (s.pickTaken).status = s.status := by
  unfold State.pickTaken; split <;> rfl
@[simp] theorem State.pickTaken_redirects (s : State) :
    (s.pickTaken).redirects = s.redirects := by
  unfold State.pickTaken; split <;> rfl
@[simp] theorem State.pickTaken_unsettled (s : State) :
    (s.pickTaken).unsettled = s.unsettled := by
  unfold State.pickTaken; split <;> rfl
@[simp] theorem State.pickTaken_landed (s : State) :
    (s.pickTaken).landed = s.landed := by
  unfold State.pickTaken; split <;> rfl
@[simp] theorem State.pickTaken_ioLog (s : State) :
    (s.pickTaken).ioLog = s.ioLog := by
  unfold State.pickTaken; split <;> rfl
@[simp] theorem State.pickTaken_ioInputs (s : State) :
    (s.pickTaken).ioInputs = s.ioInputs := by
  unfold State.pickTaken; split <;> rfl
@[simp] theorem State.pickTaken_draws (s : State) :
    (s.pickTaken).draws = s.draws := by
  unfold State.pickTaken; split <;> rfl
@[simp] theorem State.pickTaken_params (s : State) :
    (s.pickTaken).params = s.params := by
  unfold State.pickTaken; split <;> rfl

@[simp] theorem State.turnTaken_x (s : State) : (s.turnTaken).x = s.x := by unfold State.turnTaken; split <;> rfl
@[simp] theorem State.turnTaken_pc (s : State) : (s.turnTaken).pc = s.pc := by unfold State.turnTaken; split <;> rfl
@[simp] theorem State.turnTaken_flagZ (s : State) :
    (s.turnTaken).flagZ = s.flagZ := by
  unfold State.turnTaken; split <;> rfl
@[simp] theorem State.turnTaken_flagS (s : State) :
    (s.turnTaken).flagS = s.flagS := by
  unfold State.turnTaken; split <;> rfl
@[simp] theorem State.turnTaken_flagU (s : State) :
    (s.turnTaken).flagU = s.flagU := by
  unfold State.turnTaken; split <;> rfl
@[simp] theorem State.turnTaken_xchg (s : State) :
    (s.turnTaken).xchg = s.xchg := by
  unfold State.turnTaken; split <;> rfl
@[simp] theorem State.turnTaken_f (s : State) : (s.turnTaken).f = s.f := by unfold State.turnTaken; split <;> rfl
@[simp] theorem State.turnTaken_d (s : State) : (s.turnTaken).d = s.d := by unfold State.turnTaken; split <;> rfl
@[simp] theorem State.turnTaken_v (s : State) : (s.turnTaken).v = s.v := by unfold State.turnTaken; split <;> rfl
@[simp] theorem State.turnTaken_acc (s : State) : (s.turnTaken).acc = s.acc := by unfold State.turnTaken; split <;> rfl
@[simp] theorem State.turnTaken_isram (s : State) :
    (s.turnTaken).isram = s.isram := by
  unfold State.turnTaken; split <;> rfl
@[simp] theorem State.turnTaken_dsram (s : State) :
    (s.turnTaken).dsram = s.dsram := by
  unfold State.turnTaken; split <;> rfl
@[simp] theorem State.turnTaken_cache (s : State) :
    (s.turnTaken).cache = s.cache := by
  unfold State.turnTaken; split <;> rfl
@[simp] theorem State.turnTaken_ram (s : State) : (s.turnTaken).ram = s.ram := by unfold State.turnTaken; split <;> rfl
@[simp] theorem State.turnTaken_rs (s : State) : (s.turnTaken).rs = s.rs := by unfold State.turnTaken; split <;> rfl
@[simp] theorem State.turnTaken_dmaq (s : State) :
    (s.turnTaken).dmaq = s.dmaq := by
  unfold State.turnTaken; split <;> rfl
@[simp] theorem State.turnTaken_status (s : State) :
    (s.turnTaken).status = s.status := by
  unfold State.turnTaken; split <;> rfl
@[simp] theorem State.turnTaken_redirects (s : State) :
    (s.turnTaken).redirects = s.redirects := by
  unfold State.turnTaken; split <;> rfl
@[simp] theorem State.turnTaken_unsettled (s : State) :
    (s.turnTaken).unsettled = s.unsettled := by
  unfold State.turnTaken; split <;> rfl
@[simp] theorem State.turnTaken_landed (s : State) :
    (s.turnTaken).landed = s.landed := by
  unfold State.turnTaken; split <;> rfl
@[simp] theorem State.turnTaken_ioLog (s : State) :
    (s.turnTaken).ioLog = s.ioLog := by
  unfold State.turnTaken; split <;> rfl
@[simp] theorem State.turnTaken_ioInputs (s : State) :
    (s.turnTaken).ioInputs = s.ioInputs := by
  unfold State.turnTaken; split <;> rfl
@[simp] theorem State.turnTaken_draws (s : State) :
    (s.turnTaken).draws = s.draws := by
  unfold State.turnTaken; split <;> rfl
@[simp] theorem State.turnTaken_params (s : State) :
    (s.turnTaken).params = s.params := by
  unfold State.turnTaken; split <;> rfl

/-! ### Registers through their readers -/

@[simp] theorem State.getX_setX_self (s : State) (r : Reg) (value : XWord) : (s.setX r value).getX r = value := by
  simp [State.getX]

theorem State.getX_setX_of_ne (s : State) (r q : Reg) (value : XWord) (h : q ≠ r) :
    (s.setX r value).getX q = s.getX q := by
  simp [State.getX, Fin.val_ne_of_ne h.symm]

@[simp] theorem State.getF_setF_self (s : State) (r : FReg) (value : BitVec 32) : (s.setF r value).getF r = value := by
  simp [State.getF]

@[simp] theorem State.getD_setD_self (s : State) (r : DReg) (value : BitVec 64) : (s.setD r value).getD r = value := by
  simp [State.getD]

/-- A write of a vector register is a write of its four lanes. -/
@[simp] theorem State.setV_eq (s : State) (r : VReg) (value : Vec4) : s.setV r value = s.setLanes r .xyzw value := rfl

@[simp] theorem State.getV_setLanes_self (s : State) (r : VReg) (lanes : Lanes) (value : Vec4) :
    (s.setLanes r lanes value).getV r = value := by
  simp [State.getV]

/-- A fold of which every step leaves a register leaves it. -/
theorem getElem_foldl_of_kept {α β : Type} {n : Nat} (step : Vector α n → β → Vector α n) (q : Fin n) (ks : List β)
    (v : Vector α n) (h : ∀ v, ∀ k ∈ ks, (step v k)[q] = v[q]) : (ks.foldl step v)[q] = v[q] := by
  induction ks generalizing v with
  | nil => rfl
  | cons k ks ih =>
    rw [List.foldl_cons, ih _ fun v j hj => h v j (List.mem_cons_of_mem k hj), h v k List.mem_cons_self]

/-- Under every FPR_OVERLAY a write of a float register leaves the double registers that do not overlap it. -/
theorem doublesAfterFloat_of_ne (mode : FprOverlay) (d : Vector (BitVec 64) 64) (r : FReg) (value : BitVec 32)
    (counter : Nat) (q : DReg) (h : q.val ≠ r.val / 2) : (doublesAfterFloat mode d r value counter)[q] = d[q] := by
  have h' : (FReg.double r).val ≠ q.val := Ne.symm h
  cases mode <;> simp [doublesAfterFloat, h']

/-- Under every FPR_OVERLAY a write of a float register leaves the vector registers that do not overlap it. -/
theorem vectorsAfterFloat_of_ne (mode : FprOverlay) (v : Vector Vec4 32) (r : FReg) (value : BitVec 32)
    (counter : Nat) (q : VReg) (h : q.val ≠ r.val / 4) : (vectorsAfterFloat mode v r value counter)[q] = v[q] := by
  have h' : (FReg.vector r).val ≠ q.val := Ne.symm h
  cases mode <;> simp [vectorsAfterFloat, h']

/-- Under every FPR_OVERLAY a write of a double register leaves the float registers that do not overlap it. -/
theorem floatsAfterDouble_of_ne (mode : FprOverlay) (f : Vector (BitVec 32) 128) (r : DReg) (value : BitVec 64)
    (counter : Nat) (q : FReg) (h : q.val / 2 ≠ r.val) : (floatsAfterDouble mode f r value counter)[q] = f[q] := by
  have h0 : (DReg.float r 0).val ≠ q.val := by simp only [DReg.float]; omega
  have h1 : (DReg.float r 1).val ≠ q.val := by simp only [DReg.float]; omega
  cases mode <;> simp [floatsAfterDouble, h0, h1]

/-- Under every FPR_OVERLAY a write of a double register leaves the vector registers that do not overlap it. -/
theorem vectorsAfterDouble_of_ne (mode : FprOverlay) (v : Vector Vec4 32) (r : DReg) (value : BitVec 64)
    (counter : Nat) (q : VReg) (h : q.val ≠ r.val / 2) : (vectorsAfterDouble mode v r value counter)[q] = v[q] := by
  have h' : (DReg.vector r).val ≠ q.val := Ne.symm h
  cases mode <;> simp [vectorsAfterDouble, h']

/-- Under every FPR_OVERLAY a write of lanes leaves the float registers that do not overlap the vector register. -/
theorem floatsAfterLanes_of_ne (mode : FprOverlay) (f : Vector (BitVec 32) 128) (r : VReg) (lanes : Lanes)
    (value : Vec4) (counter : Nat) (q : FReg) (h : q.val / 4 ≠ r.val) :
    (floatsAfterLanes mode f r lanes value counter)[q] = f[q] := by
  have hk (k : Fin 4) : VReg.float r k ≠ q := fun e => h (by simp only [← e, VReg.float]; omega)
  cases mode with
  | separate => rfl
  | unstated | shared _ =>
    exact getElem_foldl_of_kept _ q _ _ fun f k _ => by simp [Fin.val_ne_of_ne (hk k)]

/-- Under every FPR_OVERLAY a write of lanes leaves the double registers that do not overlap the vector register. -/
theorem doublesAfterLanes_of_ne (mode : FprOverlay) (d : Vector (BitVec 64) 64) (r : VReg) (lanes : Lanes)
    (value : Vec4) (counter : Nat) (q : DReg) (h : q.val / 2 ≠ r.val) :
    (doublesAfterLanes mode d r lanes value counter)[q] = d[q] := by
  have hk (k : Fin 4) : FReg.double (VReg.float r k) ≠ q :=
    fun e => h (by simp only [← e, FReg.double, VReg.float]; omega)
  have h0 : (VReg.double r 0).val ≠ q.val := by simp only [VReg.double]; omega
  have h1 : (VReg.double r 1).val ≠ q.val := by simp only [VReg.double]; omega
  cases mode with
  | unstated => simp [doublesAfterLanes, h0, h1]
  | separate => rfl
  | shared lowFirst =>
    exact getElem_foldl_of_kept _ q _ _ fun d k _ => doublesAfterFloat_of_ne _ _ _ _ _ _ fun e => hk k (Fin.ext e.symm)

/-- A write of a float register leaves the other float registers. -/
theorem State.getF_setF_of_ne (s : State) (r q : FReg) (value : BitVec 32) (h : q ≠ r) :
    (s.setF r value).getF q = s.getF q := by
  simp [State.getF, Fin.val_ne_of_ne h.symm]

/-- A write of a float register leaves the double registers that do not overlap it (10_state.md R37). -/
theorem State.getD_setF_of_ne (s : State) (r : FReg) (q : DReg) (value : BitVec 32) (h : q.val ≠ r.val / 2) :
    (s.setF r value).getD q = s.getD q :=
  doublesAfterFloat_of_ne _ _ _ _ _ q h

/-- A write of a float register leaves the vector registers that do not overlap it (10_state.md R37). -/
theorem State.getV_setF_of_ne (s : State) (r : FReg) (q : VReg) (value : BitVec 32) (h : q.val ≠ r.val / 4) :
    (s.setF r value).getV q = s.getV q :=
  vectorsAfterFloat_of_ne _ _ _ _ _ q h

/-- A write of a double register leaves the other double registers. -/
theorem State.getD_setD_of_ne (s : State) (r q : DReg) (value : BitVec 64) (h : q ≠ r) :
    (s.setD r value).getD q = s.getD q := by
  simp [State.getD, Fin.val_ne_of_ne h.symm]

/-- A write of a double register leaves the float registers that do not overlap it (10_state.md R37). -/
theorem State.getF_setD_of_ne (s : State) (r : DReg) (q : FReg) (value : BitVec 64) (h : q.val / 2 ≠ r.val) :
    (s.setD r value).getF q = s.getF q :=
  floatsAfterDouble_of_ne _ _ _ _ _ q h

/-- A write of a double register leaves the vector registers that do not overlap it (10_state.md R37). -/
theorem State.getV_setD_of_ne (s : State) (r : DReg) (q : VReg) (value : BitVec 64) (h : q.val ≠ r.val / 2) :
    (s.setD r value).getV q = s.getV q :=
  vectorsAfterDouble_of_ne _ _ _ _ _ q h

/-- A write of lanes of a vector register leaves the other vector registers. -/
theorem State.getV_setLanes_of_ne (s : State) (r q : VReg) (lanes : Lanes) (value : Vec4) (h : q ≠ r) :
    (s.setLanes r lanes value).getV q = s.getV q := by
  simp [State.getV, Fin.val_ne_of_ne h.symm]

/-- A write of lanes of a vector register leaves the float registers that do not overlap it (10_state.md R37). -/
theorem State.getF_setLanes_of_ne (s : State) (r : VReg) (q : FReg) (lanes : Lanes) (value : Vec4)
    (h : q.val / 4 ≠ r.val) : (s.setLanes r lanes value).getF q = s.getF q :=
  floatsAfterLanes_of_ne _ _ _ _ _ _ q h

/-- A write of lanes of a vector register leaves the double registers that do not overlap it (10_state.md R37). -/
theorem State.getD_setLanes_of_ne (s : State) (r : VReg) (q : DReg) (lanes : Lanes) (value : Vec4)
    (h : q.val / 2 ≠ r.val) : (s.setLanes r lanes value).getD q = s.getD q :=
  doublesAfterLanes_of_ne _ _ _ _ _ _ q h

/-! ### The words of a double and the lanes of a vector -/

/-- The words of a double of which one is replaced. -/
theorem wordOfDouble_doubleWithWord (lowFirst : Bool) (value : BitVec 64) (j k : Nat) (word : BitVec 32) :
    wordOfDouble lowFirst (doubleWithWord lowFirst value k word) j =
      if (j == 0) = (k == 0) then word else wordOfDouble lowFirst value j := by
  have happ (x y : BitVec 32) (i : Nat) :
      (show BitVec 64 from x ++ y).getLsbD i = if i < 32 then y.getLsbD i else x.getLsbD (i - 32) := by
    simpa [Bool.cond_eq_ite] using BitVec.getLsbD_append (x := x) (y := y) (i := i)
  unfold wordOfDouble doubleWithWord
  cases lowFirst <;> cases hj : (j == 0) <;> cases hk : (k == 0) <;>
    (refine BitVec.eq_of_getLsbD_eq fun i hi => ?_; simp [happ, hi])

/-- The lanes of a vector of which one is replaced. -/
theorem Vec4.lane_withLane (a : Vec4) (j k : Nat) (word : BitVec 32) (hj : j < 4) (hk : k < 4) :
    (a.withLane k word).lane j = if j = k then word else a.lane j := by
  match j, k with
  | 0, 0 | 0, 1 | 0, 2 | 0, 3 | 1, 0 | 1, 1 | 1, 2 | 1, 3 | 2, 0 | 2, 1 | 2, 2 | 2, 3 | 3, 0 | 3, 1 | 3, 2 | 3, 3 => rfl

/-! ### One file: what a write does to each of its words (10_state.md R37) -/

/-- The word at `n` of the double registers after a write of float register `r`. -/
theorem wordOfDouble_doublesAfterFloat (lowFirst : Bool) (d : Vector (BitVec 64) 64) (r n : FReg) (value : BitVec 32)
    (counter : Nat) :
    wordOfDouble lowFirst (doublesAfterFloat (.shared lowFirst) d r value counter)[FReg.double n] (n.val % 2) =
      if n = r then value else wordOfDouble lowFirst d[FReg.double n] (n.val % 2) := by
  by_cases h : FReg.double n = FReg.double r
  · have hv : n.val / 2 = r.val / 2 := congrArg Fin.val h
    simp only [doublesAfterFloat, h, Fin.getElem_fin, Vector.getElem_set_self, wordOfDouble_doubleWithWord]
    by_cases e : n = r
    · simp [e]
    · have : n.val % 2 ≠ r.val % 2 := fun h2 => e (Fin.ext (by omega))
      have h0 : ¬((n.val % 2 == 0) = (r.val % 2 == 0)) := by
        rw [Bool.eq_iff_iff]; simp only [beq_iff_eq]; omega
      simp [e, h0]
  · have e : n ≠ r := fun e => h (by rw [e])
    rw [doublesAfterFloat_of_ne _ _ _ _ _ _ fun hv => h (Fin.ext hv), if_neg e]

/-- The word at `n` of the vector registers after a write of float register `r`. -/
theorem lane_vectorsAfterFloat (lowFirst : Bool) (v : Vector Vec4 32) (r n : FReg) (value : BitVec 32)
    (counter : Nat) :
    ((vectorsAfterFloat (.shared lowFirst) v r value counter)[FReg.vector n]).lane (n.val % 4) =
      if n = r then value else (v[FReg.vector n]).lane (n.val % 4) := by
  by_cases h : FReg.vector n = FReg.vector r
  · have hv : n.val / 4 = r.val / 4 := congrArg Fin.val h
    simp only [vectorsAfterFloat, h, Fin.getElem_fin, Vector.getElem_set_self]
    rw [Vec4.lane_withLane _ _ _ _ (by omega) (by omega)]
    by_cases e : n = r
    · simp [e]
    · have : n.val % 4 ≠ r.val % 4 := fun h2 => e (Fin.ext (by omega))
      simp [e, this]
  · have e : n ≠ r := fun e => h (by rw [e])
    rw [vectorsAfterFloat_of_ne _ _ _ _ _ _ fun hv => h (Fin.ext hv), if_neg e]

/-- The float at word `n` after a write of double register `r`. -/
theorem getElem_floatsAfterDouble (lowFirst : Bool) (f : Vector (BitVec 32) 128) (r : DReg) (n : FReg)
    (value : BitVec 64) (counter : Nat) :
    (floatsAfterDouble (.shared lowFirst) f r value counter)[n] =
      if n.val / 2 = r.val then wordOfDouble lowFirst value (n.val % 2) else f[n] := by
  split
  · rename_i h
    have : n = DReg.float r 0 ∨ n = DReg.float r 1 := by
      rcases Nat.mod_two_eq_zero_or_one n.val with h2 | h2
      · exact .inl (Fin.ext (by simp only [DReg.float]; omega))
      · exact .inr (Fin.ext (by simp only [DReg.float]; omega))
    rcases this with rfl | rfl
    · have : (2 * r.val + 0) % 2 = 0 := by omega
      simp [floatsAfterDouble, DReg.float]
    · have : (2 * r.val + 1) % 2 = 1 := by omega
      simp [floatsAfterDouble, DReg.float, this]
  · rename_i h
    exact floatsAfterDouble_of_ne _ _ _ _ _ _ h

/-- The word at `n` of the vector registers after a write of double register `r`. -/
theorem lane_vectorsAfterDouble (lowFirst : Bool) (v : Vector Vec4 32) (r : DReg) (n : FReg) (value : BitVec 64)
    (counter : Nat) :
    ((vectorsAfterDouble (.shared lowFirst) v r value counter)[FReg.vector n]).lane (n.val % 4) =
      if n.val / 2 = r.val then wordOfDouble lowFirst value (n.val % 2) else (v[FReg.vector n]).lane (n.val % 4) := by
  by_cases h : FReg.vector n = DReg.vector r
  · have hv : n.val / 4 = r.val / 2 := congrArg Fin.val h
    simp only [vectorsAfterDouble, h, Fin.getElem_fin, Vector.getElem_set_self]
    rw [Vec4.lane_withLane _ _ _ _ (by omega) (by omega), Vec4.lane_withLane _ _ _ _ (by omega) (by omega)]
    by_cases e : n.val / 2 = r.val
    · rcases Nat.mod_two_eq_zero_or_one n.val with h2 | h2
      · rw [if_neg (by omega), if_pos (by omega), if_pos e, h2]
      · rw [if_pos (by omega), if_pos e, h2]
    · rw [if_neg (by omega), if_neg (by omega), if_neg e]
  · have e : n.val / 2 ≠ r.val := fun e => h (Fin.ext (by simp only [FReg.vector, DReg.vector]; omega))
    rw [vectorsAfterDouble_of_ne _ _ _ _ _ _ fun hv => h (Fin.ext hv), if_neg e]

/-- The float at word `n` after a write of lanes of vector register `r`. -/
theorem getElem_floatsAfterLanes (lowFirst : Bool) (f : Vector (BitVec 32) 128) (r : VReg) (lanes : Lanes) (n : FReg)
    (value : Vec4) (counter : Nat) :
    (floatsAfterLanes (.shared lowFirst) f r lanes value counter)[n] =
      if n.val / 4 = r.val ∧ n.val % 4 ≤ lanes.toField then value.lane (n.val % 4) else f[n] := by
  by_cases h : n.val / 4 = r.val
  · have hn : n = VReg.float r ⟨n.val % 4, by omega⟩ := Fin.ext (by simp only [VReg.float]; omega)
    generalize hk : (⟨n.val % 4, by omega⟩ : Fin 4) = k at hn
    have hk' : n.val % 4 = k.val := by rw [← hk]
    rw [hk', hn]
    obtain ⟨k, hk4⟩ := k
    match k, lanes with
    | 0, .x | 1, .x | 2, .x | 3, .x | 0, .xy | 1, .xy | 2, .xy | 3, .xy | 0, .xyz | 1, .xyz | 2, .xyz | 3, .xyz
    | 0, .xyzw | 1, .xyzw | 2, .xyzw | 3, .xyzw =>
      simp [floatsAfterLanes, Lanes.selected, VReg.float, Lanes.toField] <;> omega
  · rw [floatsAfterLanes_of_ne _ _ _ _ _ _ _ h, if_neg fun e => h e.1]

/-- The word at `n` of the double registers after a write of lanes of vector register `r`. -/
theorem wordOfDouble_doublesAfterLanes (lowFirst : Bool) (d : Vector (BitVec 64) 64) (r : VReg) (lanes : Lanes)
    (n : FReg) (value : Vec4) (counter : Nat) :
    wordOfDouble lowFirst (doublesAfterLanes (.shared lowFirst) d r lanes value counter)[FReg.double n] (n.val % 2) =
      if n.val / 4 = r.val ∧ n.val % 4 ≤ lanes.toField then value.lane (n.val % 4)
      else wordOfDouble lowFirst d[FReg.double n] (n.val % 2) := by
  have hword (k : Fin 4) : n = VReg.float r k ↔ n.val = 4 * r.val + k.val := Fin.ext_iff
  obtain h | h | h | h : n.val % 4 = 0 ∨ n.val % 4 = 1 ∨ n.val % 4 = 2 ∨ n.val % 4 = 3 := by omega
  all_goals
    cases lanes <;>
      simp only [doublesAfterLanes, Lanes.selected, List.foldl_cons, List.foldl_nil, wordOfDouble_doublesAfterFloat,
        hword, Lanes.toField, h] <;>
      split_ifs <;> first | rfl | (simp at *; done) | (simp at *; omega)

end Sys2Proof.Machine
end

