-- ==== Sys2Proof/Laws/Ops.lean ====
section
/-! SUPPORT. What each shared operation can do, said once: if it answers a next state, how that state came about. -/

namespace Sys2Proof.Machine

open Sys2Proof

/-! ### Sequencing -/

/-- A sequence answers a next value exactly when both parts do. -/
theorem andThen_next {α β : Type} {r : Result α} {k : α → Result β} {b : β} :
    andThen r k = .next b ↔ ∃ a, r = .next a ∧ k a = .next b := by
  cases r <;> simp [andThen]

/-- A sequence faults when its first part does, or its second. -/
theorem andThen_fault {α β : Type} {r : Result α} {k : α → Result β} {e : Fault} :
    andThen r k = .fault e ↔ r = .fault e ∨ ∃ a, r = .next a ∧ k a = .fault e := by
  cases r <;> simp [andThen]

/-- A sequence is refused when its first part is, or its second. -/
theorem andThen_refused {α β : Type} {r : Result α} {k : α → Result β} {e : Refusal} :
    andThen r k = .refused e ↔ r = .refused e ∨ ∃ a, r = .next a ∧ k a = .refused e := by
  cases r <;> simp [andThen]

@[simp] theorem andThen_next_left {α β : Type} (a : α) (k : α → Result β) : andThen (.next a) k = k a := rfl

/-! ### Immediates -/

/-- An immediate of an instruction that IMM_SIGNED does not name is an unsigned number. -/
theorem State.immValue_of_unsigned {n : Nat} {s : State} {m : Mnemonic} (h : s.signsImm m = false) (value : BitVec n) :
    s.immValue m value = value.toNat := by
  simp [State.immValue, h]

/-- An immediate of an instruction that IMM_SIGNED names is a signed number. -/
theorem State.immValue_of_signed {n : Nat} {s : State} {m : Mnemonic} (h : s.signsImm m = true) (value : BitVec n) :
    s.immValue m value = value.toInt := by
  simp [State.immValue, h]

/-- An immediate of an instruction that IMM_SIGNED does not name is extended by zeros. -/
theorem State.immExt_of_unsigned {n : Nat} {s : State} {m : Mnemonic} (h : s.signsImm m = false) (value : BitVec n) :
    s.immExt m value = value.setWidth 64 := by
  simp [State.immExt, h]

/-- An immediate of an instruction that IMM_SIGNED names is extended by its sign. -/
theorem State.immExt_of_signed {n : Nat} {s : State} {m : Mnemonic} (h : s.signsImm m = true) (value : BitVec n) :
    s.immExt m value = value.signExtend 64 := by
  simp [State.immExt, h]

/-! ### Memory accesses -/

/-- The checks pass exactly when the access is in range and aligned, and answer its address. -/
theorem State.checkAccess_next {s : State} {sp : Space} {a : Int} {n k : Nat} :
    s.checkAccess sp a n = .next k ↔ s.inSpace sp a n = true ∧ s.alignedFor a.toNat n = true ∧ k = a.toNat := by
  unfold State.checkAccess
  cases s.inSpace sp a n <;> cases s.alignedFor a.toNat n <;> simp [eq_comm]

/-- What a load that answers found. -/
theorem State.load_next {s : State} {sp : Space} {a : Int} {n v : Nat} (h : s.load sp a n = .next v) :
    s.inSpace sp a n = true ∧ s.alignedFor a.toNat n = true ∧ s.readRaces sp a.toNat n = false ∧
      ∃ bs, (s.mem sp).readBytes a.toNat n = .ok bs ∧ v = leNat bs := by
  obtain ⟨k, h1, h2⟩ := andThen_next.1 h
  obtain ⟨h3, h4, rfl⟩ := State.checkAccess_next.1 h1
  split at h2
  · cases h2
  · rename_i hr
    split at h2
    · rename_i bs hb
      cases h2
      exact ⟨h3, h4, by simpa using hr, bs, hb, rfl⟩
    · cases h2

/-- What a store that answers did. -/
theorem State.store_next {s t : State} {sp : Space} {a : Int} {n v : Nat} (h : s.store sp a n v = .next t) :
    s.inSpace sp a n = true ∧ s.alignedFor a.toNat n = true ∧ s.writeRaces sp a.toNat n = false ∧
      t = s.setMem sp ((s.mem sp).writeBytes a.toNat (leBytes n v)) := by
  obtain ⟨k, h1, h2⟩ := andThen_next.1 h
  obtain ⟨h3, h4, rfl⟩ := State.checkAccess_next.1 h1
  split at h2
  · cases h2
  · rename_i hr
    cases h2
    exact ⟨h3, h4, by simpa using hr, rfl⟩

/-- An integer load that answers. -/
theorem State.loadInt_next {s t : State} {sp : Space} {data base : Reg} {a : Int} {size : Size} {inc : Bool}
    (h : s.loadInt sp data base a size inc = .next t) :
    ∃ v, s.load sp a (Size.bytes size) = .next v ∧ (inc && data == base) = false ∧
      t = ((s.postInc base inc (Size.bytes size)).setX data
        (extendLoad s.params.loadExt size (s.getX data) v)).advance := by
  obtain ⟨v, h1, h2⟩ := andThen_next.1 h
  split at h2
  · cases h2
  · rename_i hd
    cases h2
    exact ⟨v, h1, by simpa using hd, rfl⟩

/-- An integer store that answers. -/
theorem State.storeInt_next {s t : State} {sp : Space} {data base : Reg} {a : Int} {size : Size} {inc : Bool}
    (h : s.storeInt sp data base a size inc = .next t) :
    ∃ s', s.store sp a (Size.bytes size) (s.getX data).toNat = .next s' ∧
      t = (s'.postInc base inc (Size.bytes size)).advance := by
  obtain ⟨s', h1, h2⟩ := andThen_next.1 h
  cases h2
  exact ⟨s', h1, rfl⟩

/-- A store of a float, double or vector that answers. -/
theorem State.storeWide_next {s t : State} {sp : Space} {base : Reg} {a : Int} {n v : Nat} {inc : Bool}
    (h : s.storeWide sp base a n v inc = .next t) :
    ∃ s', s.store sp a n v = .next s' ∧ t = (s'.postInc base inc n).advance := by
  obtain ⟨s', h1, h2⟩ := andThen_next.1 h
  cases h2
  exact ⟨s', h1, rfl⟩

/-- A vector load that answers. -/
theorem State.loadVector_next {s t : State} {sp : Space} {data : VReg} {base : Reg} {a : Int} {inc : Bool}
    (h : s.loadVector sp data base a inc = .next t) :
    ∃ v, s.load sp a 16 = .next v ∧ t = ((s.postInc base inc 16).setV data (Vec4.ofNat128 v)).advance := by
  obtain ⟨v, h1, h2⟩ := andThen_next.1 h
  cases h2
  exact ⟨v, h1, rfl⟩

/-- A float load that answers. -/
theorem State.loadFloat_next {s t : State} {sp : Space} {data : FReg} {base : Reg} {a : Int} {inc : Bool}
    (h : s.loadFloat sp data base a inc = .next t) :
    ∃ v, s.load sp a 4 = .next v ∧ t = ((s.postInc base inc 4).setF data (BitVec.ofNat 32 v)).advance := by
  obtain ⟨v, h1, h2⟩ := andThen_next.1 h
  cases h2
  exact ⟨v, h1, rfl⟩

/-- A double load that answers. -/
theorem State.loadDouble_next {s t : State} {sp : Space} {data : DReg} {base : Reg} {a : Int} {inc : Bool}
    (h : s.loadDouble sp data base a inc = .next t) :
    ∃ v, s.load sp a 8 = .next v ∧ t = ((s.postInc base inc 8).setD data (BitVec.ofNat 64 v)).advance := by
  obtain ⟨v, h1, h2⟩ := andThen_next.1 h
  cases h2
  exact ⟨v, h1, rfl⟩

/-- An output to IOSRAM that answers. -/
theorem State.outputIo_next {s t : State} {a : Int} {n v : Nat} (h : s.outputIo a n v = .next t) :
    s.inSpace .iosram a n = true ∧ s.alignedFor a.toNat n = true ∧
      t = (s.logIo (.output a.toNat n (v % 256 ^ n))).advance := by
  obtain ⟨k, h1, h2⟩ := andThen_next.1 h
  obtain ⟨h3, h4, rfl⟩ := State.checkAccess_next.1 h1
  cases h2
  exact ⟨h3, h4, rfl⟩

/-- The post-increment changes general registers alone. -/
theorem State.postInc_eq (s : State) (base : Reg) (inc : Bool) (n : Nat) :
    s.postInc base inc n = { s with x := (s.postInc base inc n).x } := by
  unfold State.postInc
  cases inc <;> rfl

/-! ### Control transfers -/

/-- A taken transfer without a delay goes to its target. -/
@[simp] theorem State.jump_of_noDelay {s : State} (h : s.params.branchDelay = 0) (a : Addr) : s.jump a = s.setPc a := by
  simp [State.jump, h]

/-- A taken transfer under BRANCH_DELAY goes on, and the target is to come. -/
theorem State.jump_of_delay {s : State} (h : s.params.branchDelay ≠ 0) (a : Addr) :
    s.jump a = s.advance.setRedirects (s.redirects ++ [⟨s.params.branchDelay + 1, a⟩]) := by
  simp [State.jump, h]

/-- What a taken transfer changes: pc and the targets to come. -/
theorem State.jump_eq (s : State) (a : Addr) :
    s.jump a = { s with pc := (s.jump a).pc, redirects := (s.jump a).redirects } := by
  unfold State.jump
  split <;> rfl

/-- A call that answers. -/
theorem State.callTo_next {s t : State} {a : Addr} (h : s.callTo a = .next t) :
    s.rs.length < s.params.callDepth ∧ t = (s.setRs (s.nextPc :: s.rs)).jump a := by
  unfold State.callTo at h
  split at h
  · cases h; exact ⟨‹_›, rfl⟩
  · cases h

/-- A return that answers. -/
theorem State.returnFrom_next {s t : State} (h : s.returnFrom = .next t) :
    ∃ a rest, s.rs = a :: rest ∧ t = (s.setRs rest).jump a := by
  unfold State.returnFrom at h
  split at h
  · cases h
  · rename_i a rest hr
    cases h; exact ⟨a, rest, hr, rfl⟩

/-! ### Transfers -/

/-- A range lies in its space. -/
theorem State.rangeInSpace_iff {s : State} {sp : Space} {a : Int} {len : Nat} :
    s.rangeInSpace sp a len = true ↔ 0 ≤ a ∧ a + len ≤ s.sizeOf sp := by
  simp [State.rangeInSpace]

/-- The start of a transfer that answers. -/
theorem State.startTransfer_next {s t : State} {src dst : Space} {a b : Int} {len : Nat}
    (h : s.startTransfer src a dst b len = .next t) :
    (len = 0 ∧ t = s) ∨
      (len ≠ 0 ∧ s.rangeInSpace src a len = true ∧ s.rangeInSpace dst b len = true ∧
        s.writeRaces dst b.toNat len = false ∧ s.readRaces src a.toNat len = false ∧
        t = s.setDmaq (s.dmaq ++ [⟨src, a.toNat, dst, b.toNat, len, []⟩])) := by
  unfold State.startTransfer at h
  split at h
  · cases h; exact .inl ⟨‹_›, rfl⟩
  · split at h
    · cases h
    · split at h
      · cases h
      · split at h
        · cases h
        · rename_i h1 h2 h3 h4
          cases h
          simp only [Bool.or_eq_true, not_or, Bool.not_eq_true] at h4
          exact .inr ⟨h1, by simpa using h2, by simpa using h3, h4.1, h4.2, rfl⟩

/-- An instruction that starts a transfer and answers. -/
theorem State.startAndAdvance_next {s t : State} {src dst : Space} {a b : Int} {len : Nat}
    (h : s.startAndAdvance src a dst b len = .next t) :
    ∃ s', s.startTransfer src a dst b len = .next s' ∧ t = s'.advance := by
  obtain ⟨s', h1, h2⟩ := andThen_next.1 h
  cases h2
  exact ⟨s', h1, rfl⟩

/-- A WAIT that answers: it completed, or it holds. -/
theorem execWait_next {s t : State} (h : execWait s = .next t) :
    (s.dmaq = [] ∧ t = (s.setLanded []).advance) ∨ (s.dmaq ≠ [] ∧ t = s) := by
  unfold execWait at h
  split at h
  · rename_i hd; cases h; exact .inl ⟨hd, rfl⟩
  · rename_i hd; cases h; exact .inr ⟨by simp [hd], rfl⟩

/-- One copied byte: what it read, what it wrote, and where the transfer went. -/
theorem State.copyByte_next {s t : State} {j k : Nat} {tr : Transfer} (h : s.copyByte j tr k = .next t) :
    ∃ b, s.byteAt tr.src (tr.srcAddr + k) = some b ∧
      ((Transfer.isDone (tr.withCopied k) = true ∧
          t = ((s.setMem tr.dst ((s.mem tr.dst).set (tr.dstAddr + k) b)).setDmaq (s.dmaq.eraseIdx j)).setLanded
            (s.landed ++ [{ tr with copied := [] }])) ∨
        (Transfer.isDone (tr.withCopied k) = false ∧
          t = (s.setMem tr.dst ((s.mem tr.dst).set (tr.dstAddr + k) b)).setDmaq
            (s.dmaq.set j (tr.withCopied k)))) := by
  unfold State.copyByte at h
  split at h
  · cases h
  · rename_i b hb
    refine ⟨b, hb, ?_⟩
    simp only [State.setMem_dmaq, State.setMem_landed] at h
    split at h
    · rename_i hd; cases h; exact .inl ⟨hd, rfl⟩
    · rename_i hd; cases h; exact .inr ⟨by simpa using hd, rfl⟩

/-! ### Bundles and steps -/

/-- A commit of opcodes that answers: slot 0 first, each with the pc of the bundle, the pc that of slot 0. -/
theorem commitRest_next {s t : State} {pc : Addr} {i : Instr} {rest : List Instr} :
    commitRest pc (i :: rest) s = .next t ↔
      ∃ u, exec i (s.setPc pc) = .next u ∧ commitRest pc rest (u.setPc s.pc) = .next t :=
  andThen_next

/-- A commit of a bundle that answers. -/
theorem commitBundle_next {s t : State} {i : Instr} {rest : List Instr} :
    commitBundle s (i :: rest) = .next t ↔ ∃ u, exec i s = .next u ∧ commitRest s.pc rest u = .next t :=
  andThen_next

/-- What the end of a bundle changes: pc, the targets to come, and the destinations to settle. -/
theorem State.endBundle_eq (s : State) (l : List Unsettled) :
    s.endBundle l = { s with
      pc := (s.endBundle l).pc, redirects := (s.endBundle l).redirects, unsettled := (s.endBundle l).unsettled } :=
  rfl

/-- The end of a bundle changes nothing while BRANCH_DELAY and LATENCY are 0. -/
theorem State.endBundle_of_noDelay {s : State} (hr : s.redirects = []) (hu : s.unsettled = []) :
    s.endBundle [] = s := by
  obtain ⟨_, _⟩ := s
  simp_all [State.endBundle]

/-- The slot that stops a bundle holds an opcode that stops. -/
theorem stoppingSlot_stops {s : State} {is : List Instr} {k : Nat} {i : Instr} (h : stoppingSlot s is = some k)
    (hi : is[k]? = some i) : stopsAtAll (exec i s) = true := by
  have hfirst : ∀ r : Result State, stopsFirst r = true → stopsAtAll r = true := by
    intro r hr
    cases r <;> simp_all [stopsFirst, stopsAtAll]
  unfold stoppingSlot at h
  split at h
  · rename_i j hj
    cases h
    obtain ⟨hlt, hs, _⟩ := List.findIdx?_eq_some_iff_getElem.1 hj
    rw [List.getElem?_eq_getElem hlt] at hi
    cases hi
    exact hfirst _ hs
  · obtain ⟨hlt, hs, _⟩ := List.findIdx?_eq_some_iff_getElem.1 h
    rw [List.getElem?_eq_getElem hlt] at hi
    cases hi
    exact hs

/-- What a bundle that runs did: no rule of the bundle refuses it, its opcodes are committed on the state they read,
and it ends. -/
theorem runBundle_next {s t : State} {is : List Instr} (h : runBundle s is = .next t) :
    bundleConflicts (s.readState is) is = false ∧ (is.any fun i => Instr.readsUnsettled i (s.readState is)) = false ∧
      ∃ u, commitBundle (s.readState is) is = .next u ∧
        t = u.endBundle (is.flatMap fun i => Instr.unsettledBy i (s.readState is)) := by
  unfold runBundle at h
  simp only at h
  split at h
  · rename_i i hi
    obtain ⟨k, hk, hki⟩ := Option.bind_eq_some_iff.1 hi
    have := stoppingSlot_stops hk hki
    simp [h, stopsAtAll] at this
  · split at h
    · cases h
    · split at h
      · cases h
      · split at h
        · cases h
        · rename_i h1 _ h3
          obtain ⟨u, hu, ht⟩ := andThen_next.1 h
          cases ht
          exact ⟨by simpa using h1, by simpa using h3, u, hu, rfl⟩

/-- A fetch that answers: the bundle lies inside ISRAM and its bytes hold values. -/
theorem State.fetch_next {s : State} {words : List Word} (h : s.fetch = .next words) :
    s.pc.toNat + 4 * s.width ≤ s.params.isramSize ∧
      ∃ bs, s.isram.readBytes s.pc.toNat (4 * s.width) = .ok bs ∧ words = wordsOfBytes s.width bs := by
  unfold State.fetch at h
  simp only at h
  split at h
  · cases h
  · split at h
    · cases h; exact ⟨by omega, _, ‹_›, rfl⟩
    · split at h <;> cases h

/-- A fetched bundle that runs lies under no DMAIR. -/
theorem runFetched_next {s t : State} {is : List Instr} :
    runFetched s is = .next t ↔ s.fetchRaces = false ∧ runBundle s is = .next t := by
  unfold runFetched
  cases s.fetchRaces <;> cases hr : runBundle s is <;> simp [stopsFirst]
  split <;> simp

/-- A fetched bundle that lies under no DMAIR does as the bundle does. -/
theorem runFetched_of_noRace {s : State} (h : s.fetchRaces = false) (is : List Instr) :
    runFetched s is = runBundle s is := by
  simp [runFetched, h]

/-- A core's turn that answers: the bundle was fetched and decoded, and a WAIT holds it while the engine moves, or it
lies under no DMAIR and runs. -/
theorem State.coreMove_next {s t : State} (h : s.coreMove = .next t) :
    ∃ is, s.fetchBundle = .next is ∧
      ((s.holds is = true ∧ s.engineMove = .next t) ∨
        (s.holds is = false ∧ s.fetchRaces = false ∧ runBundle s is = .next t)) := by
  obtain ⟨is, h1, h2⟩ := andThen_next.1 h
  refine ⟨is, h1, ?_⟩
  split at h2
  · exact .inl ⟨‹_›, h2⟩
  · exact .inr ⟨Bool.eq_false_iff.2 ‹_›, runFetched_next.1 h2⟩

/-- What a running machine's step is. -/
theorem step_running {s : State} (h : s.status = .running) : step s = stepRunning s := by
  simp [step, h]

/-- What the step of a stopped core is: the engine's, or none. -/
theorem step_stopped {s t : State} (h : s.status ≠ .running) (ht : step s = .next t) :
    s.dmaq ≠ [] ∧ s.engineMove = .next t := by
  unfold step stepStopped at ht
  cases hd : s.dmaq <;> cases hs : s.status <;> simp_all

end Sys2Proof.Machine
end

