-- ==== Sys2Proof/Laws/PerInstr.lean ====
section
/-! SUPPORT. Statements made per instruction. ComputeUnit: the two low bits of an instruction's encoding are the Compute
Unit field of the group that decodes it (30_encoding.md R100). -/

namespace Sys2Proof.Laws

open Sys2Proof

/-- The Compute Unit value of a class (30_encoding.md R100). -/
def unitOf : IssueClass → Nat
  | .bru => 0
  | .agu => 0
  | .load => 1
  | .store => 1
  | .xchg => 2
  | .alu => 2
  | .vfpu => 3
  | .vdiv => 3

/-- The two low bits of the encoding are the Compute Unit field (30_encoding.md R100). -/
def ComputeUnit.Statement (i : Instr) : Prop := encodeNat i % 4 = unitOf i.issueClass


/-- Every format sets its two low bits to the unit's value. -/
theorem ComputeUnit.holds (i : Instr) : ComputeUnit.Statement i := by
  cases i <;>
    simp only [ComputeUnit.Statement, encodeNat, encCmp, encBcc, encJmp, encLs, encLsx, encIo, encLsv, encLsf, encLsd,
      encRrr, encRri, encRi, encDma, encDmar, encVv, encVf, encDd, encFcvt, encFix, encFi, encDi, encFdiv, encDdiv,
      Instr.issueClass, unitOf] <;>
    omega

theorem ComputeUnit.cmp (left : Reg) (right : Reg) (size : Size) :
    ComputeUnit.Statement (.cmp left right size) :=
  ComputeUnit.holds _

theorem ComputeUnit.cmpi (left : Reg) (imm : BitVec 20) (size : Size) :
    ComputeUnit.Statement (.cmpi left imm size) :=
  ComputeUnit.holds _

theorem ComputeUnit.fcmp (left : FReg) (right : FReg) :
    ComputeUnit.Statement (.fcmp left right) :=
  ComputeUnit.holds _

theorem ComputeUnit.fcmpi (left : FReg) (imm : BitVec 21) :
    ComputeUnit.Statement (.fcmpi left imm) :=
  ComputeUnit.holds _

theorem ComputeUnit.dcmp (left : DReg) (right : DReg) :
    ComputeUnit.Statement (.dcmp left right) :=
  ComputeUnit.holds _

theorem ComputeUnit.dcmpi (left : DReg) (imm : BitVec 22) :
    ComputeUnit.Statement (.dcmpi left imm) :=
  ComputeUnit.holds _

theorem ComputeUnit.bne (label : Label) :
    ComputeUnit.Statement (.bne label) :=
  ComputeUnit.holds _

theorem ComputeUnit.beq (label : Label) :
    ComputeUnit.Statement (.beq label) :=
  ComputeUnit.holds _

theorem ComputeUnit.bl (label : Label) :
    ComputeUnit.Statement (.bl label) :=
  ComputeUnit.holds _

theorem ComputeUnit.ble (label : Label) :
    ComputeUnit.Statement (.ble label) :=
  ComputeUnit.holds _

theorem ComputeUnit.bg (label : Label) :
    ComputeUnit.Statement (.bg label) :=
  ComputeUnit.holds _

theorem ComputeUnit.bge (label : Label) :
    ComputeUnit.Statement (.bge label) :=
  ComputeUnit.holds _

theorem ComputeUnit.bls (label : Label) :
    ComputeUnit.Statement (.bls label) :=
  ComputeUnit.holds _

theorem ComputeUnit.bles (label : Label) :
    ComputeUnit.Statement (.bles label) :=
  ComputeUnit.holds _

theorem ComputeUnit.bgs (label : Label) :
    ComputeUnit.Statement (.bgs label) :=
  ComputeUnit.holds _

theorem ComputeUnit.bges (label : Label) :
    ComputeUnit.Statement (.bges label) :=
  ComputeUnit.holds _

theorem ComputeUnit.call (label : Label) :
    ComputeUnit.Statement (.call label) :=
  ComputeUnit.holds _

theorem ComputeUnit.jmp (label : Label) :
    ComputeUnit.Statement (.jmp label) :=
  ComputeUnit.holds _

theorem ComputeUnit.callr (label : Label) :
    ComputeUnit.Statement (.callr label) :=
  ComputeUnit.holds _

theorem ComputeUnit.jmpr (label : Label) :
    ComputeUnit.Statement (.jmpr label) :=
  ComputeUnit.holds _

theorem ComputeUnit.ret :
    ComputeUnit.Statement (.ret) :=
  ComputeUnit.holds _

theorem ComputeUnit.ldm (data : Reg) (base : Reg) (imm : BitVec 12) (size : Size) (inc : Bool) :
    ComputeUnit.Statement (.ldm data base imm size inc) :=
  ComputeUnit.holds _

theorem ComputeUnit.stm (data : Reg) (base : Reg) (imm : BitVec 12) (size : Size) (inc : Bool) :
    ComputeUnit.Statement (.stm data base imm size inc) :=
  ComputeUnit.holds _

theorem ComputeUnit.ldmx (data : Reg) (source : Bool) (imm : BitVec 16) (size : Size) :
    ComputeUnit.Statement (.ldmx data source imm size) :=
  ComputeUnit.holds _

theorem ComputeUnit.stmx (data : Reg) (source : Bool) (imm : BitVec 16) (size : Size) :
    ComputeUnit.Statement (.stmx data source imm size) :=
  ComputeUnit.holds _

theorem ComputeUnit.inp (data : Reg) (addr : BitVec 8) (size : Size) :
    ComputeUnit.Statement (.inp data addr size) :=
  ComputeUnit.holds _

theorem ComputeUnit.out (data : Reg) (addr : BitVec 8) (size : Size) :
    ComputeUnit.Statement (.out data addr size) :=
  ComputeUnit.holds _

theorem ComputeUnit.outi (addr : BitVec 8) (imm : BitVec 16) (size : Size) :
    ComputeUnit.Statement (.outi addr imm size) :=
  ComputeUnit.holds _

theorem ComputeUnit.ldc (data : Reg) (base : Reg) (imm : BitVec 12) (size : Size) (inc : Bool) :
    ComputeUnit.Statement (.ldc data base imm size inc) :=
  ComputeUnit.holds _

theorem ComputeUnit.stc (data : Reg) (base : Reg) (imm : BitVec 12) (size : Size) (inc : Bool) :
    ComputeUnit.Statement (.stc data base imm size inc) :=
  ComputeUnit.holds _

theorem ComputeUnit.ldmv (data : VReg) (base : Reg) (imm : BitVec 15) (inc : Bool) :
    ComputeUnit.Statement (.ldmv data base imm inc) :=
  ComputeUnit.holds _

theorem ComputeUnit.stmv (data : VReg) (base : Reg) (imm : BitVec 15) (inc : Bool) :
    ComputeUnit.Statement (.stmv data base imm inc) :=
  ComputeUnit.holds _

theorem ComputeUnit.ldcv (data : VReg) (base : Reg) (imm : BitVec 15) (inc : Bool) :
    ComputeUnit.Statement (.ldcv data base imm inc) :=
  ComputeUnit.holds _

theorem ComputeUnit.stcv (data : VReg) (base : Reg) (imm : BitVec 15) (inc : Bool) :
    ComputeUnit.Statement (.stcv data base imm inc) :=
  ComputeUnit.holds _

theorem ComputeUnit.ldmf (data : FReg) (base : Reg) (imm : BitVec 15) (inc : Bool) :
    ComputeUnit.Statement (.ldmf data base imm inc) :=
  ComputeUnit.holds _

theorem ComputeUnit.stmf (data : FReg) (base : Reg) (imm : BitVec 15) (inc : Bool) :
    ComputeUnit.Statement (.stmf data base imm inc) :=
  ComputeUnit.holds _

theorem ComputeUnit.ldcf (data : FReg) (base : Reg) (imm : BitVec 15) (inc : Bool) :
    ComputeUnit.Statement (.ldcf data base imm inc) :=
  ComputeUnit.holds _

theorem ComputeUnit.stcf (data : FReg) (base : Reg) (imm : BitVec 15) (inc : Bool) :
    ComputeUnit.Statement (.stcf data base imm inc) :=
  ComputeUnit.holds _

theorem ComputeUnit.ldmd (data : DReg) (base : Reg) (imm : BitVec 16) (inc : Bool) :
    ComputeUnit.Statement (.ldmd data base imm inc) :=
  ComputeUnit.holds _

theorem ComputeUnit.stmd (data : DReg) (base : Reg) (imm : BitVec 16) (inc : Bool) :
    ComputeUnit.Statement (.stmd data base imm inc) :=
  ComputeUnit.holds _

theorem ComputeUnit.ldcd (data : DReg) (base : Reg) (imm : BitVec 16) (inc : Bool) :
    ComputeUnit.Statement (.ldcd data base imm inc) :=
  ComputeUnit.holds _

theorem ComputeUnit.stcd (data : DReg) (base : Reg) (imm : BitVec 16) (inc : Bool) :
    ComputeUnit.Statement (.stcd data base imm inc) :=
  ComputeUnit.holds _

theorem ComputeUnit.xchg :
    ComputeUnit.Statement (.xchg) :=
  ComputeUnit.holds _

theorem ComputeUnit.nop (fin : Bool) :
    ComputeUnit.Statement (.nop fin) :=
  ComputeUnit.holds _

theorem ComputeUnit.add (dst : Reg) (left : Reg) (right : Reg) (size : Size) :
    ComputeUnit.Statement (.add dst left right size) :=
  ComputeUnit.holds _

theorem ComputeUnit.sub (dst : Reg) (left : Reg) (right : Reg) (size : Size) :
    ComputeUnit.Statement (.sub dst left right size) :=
  ComputeUnit.holds _

theorem ComputeUnit.muls (dst : Reg) (left : Reg) (right : Reg) (size : Size) :
    ComputeUnit.Statement (.muls dst left right size) :=
  ComputeUnit.holds _

theorem ComputeUnit.mulu (dst : Reg) (left : Reg) (right : Reg) (size : Size) :
    ComputeUnit.Statement (.mulu dst left right size) :=
  ComputeUnit.holds _

theorem ComputeUnit.divs (dst : Reg) (left : Reg) (right : Reg) (size : Size) :
    ComputeUnit.Statement (.divs dst left right size) :=
  ComputeUnit.holds _

theorem ComputeUnit.divu (dst : Reg) (left : Reg) (right : Reg) (size : Size) :
    ComputeUnit.Statement (.divu dst left right size) :=
  ComputeUnit.holds _

theorem ComputeUnit.and (dst : Reg) (left : Reg) (right : Reg) (size : Size) :
    ComputeUnit.Statement (.and dst left right size) :=
  ComputeUnit.holds _

theorem ComputeUnit.or (dst : Reg) (left : Reg) (right : Reg) (size : Size) :
    ComputeUnit.Statement (.or dst left right size) :=
  ComputeUnit.holds _

theorem ComputeUnit.xor (dst : Reg) (left : Reg) (right : Reg) (size : Size) :
    ComputeUnit.Statement (.xor dst left right size) :=
  ComputeUnit.holds _

theorem ComputeUnit.asl (dst : Reg) (left : Reg) (right : Reg) (size : Size) :
    ComputeUnit.Statement (.asl dst left right size) :=
  ComputeUnit.holds _

theorem ComputeUnit.lsl (dst : Reg) (left : Reg) (right : Reg) (size : Size) :
    ComputeUnit.Statement (.lsl dst left right size) :=
  ComputeUnit.holds _

theorem ComputeUnit.asr (dst : Reg) (left : Reg) (right : Reg) (size : Size) :
    ComputeUnit.Statement (.asr dst left right size) :=
  ComputeUnit.holds _

theorem ComputeUnit.lsr (dst : Reg) (left : Reg) (right : Reg) (size : Size) :
    ComputeUnit.Statement (.lsr dst left right size) :=
  ComputeUnit.holds _

theorem ComputeUnit.addi (dst : Reg) (left : Reg) (imm : BitVec 10) (size : Size) :
    ComputeUnit.Statement (.addi dst left imm size) :=
  ComputeUnit.holds _

theorem ComputeUnit.subi (dst : Reg) (left : Reg) (imm : BitVec 10) (size : Size) :
    ComputeUnit.Statement (.subi dst left imm size) :=
  ComputeUnit.holds _

theorem ComputeUnit.mulsi (dst : Reg) (left : Reg) (imm : BitVec 10) (size : Size) :
    ComputeUnit.Statement (.mulsi dst left imm size) :=
  ComputeUnit.holds _

theorem ComputeUnit.mului (dst : Reg) (left : Reg) (imm : BitVec 10) (size : Size) :
    ComputeUnit.Statement (.mului dst left imm size) :=
  ComputeUnit.holds _

theorem ComputeUnit.divsi (dst : Reg) (left : Reg) (imm : BitVec 10) (size : Size) :
    ComputeUnit.Statement (.divsi dst left imm size) :=
  ComputeUnit.holds _

theorem ComputeUnit.divui (dst : Reg) (left : Reg) (imm : BitVec 10) (size : Size) :
    ComputeUnit.Statement (.divui dst left imm size) :=
  ComputeUnit.holds _

theorem ComputeUnit.andi (dst : Reg) (left : Reg) (imm : BitVec 10) (size : Size) :
    ComputeUnit.Statement (.andi dst left imm size) :=
  ComputeUnit.holds _

theorem ComputeUnit.ori (dst : Reg) (left : Reg) (imm : BitVec 10) (size : Size) :
    ComputeUnit.Statement (.ori dst left imm size) :=
  ComputeUnit.holds _

theorem ComputeUnit.xori (dst : Reg) (left : Reg) (imm : BitVec 10) (size : Size) :
    ComputeUnit.Statement (.xori dst left imm size) :=
  ComputeUnit.holds _

theorem ComputeUnit.asli (dst : Reg) (left : Reg) (imm : BitVec 10) (size : Size) :
    ComputeUnit.Statement (.asli dst left imm size) :=
  ComputeUnit.holds _

theorem ComputeUnit.lsli (dst : Reg) (left : Reg) (imm : BitVec 10) (size : Size) :
    ComputeUnit.Statement (.lsli dst left imm size) :=
  ComputeUnit.holds _

theorem ComputeUnit.asri (dst : Reg) (left : Reg) (imm : BitVec 10) (size : Size) :
    ComputeUnit.Statement (.asri dst left imm size) :=
  ComputeUnit.holds _

theorem ComputeUnit.lsri (dst : Reg) (left : Reg) (imm : BitVec 10) (size : Size) :
    ComputeUnit.Statement (.lsri dst left imm size) :=
  ComputeUnit.holds _

theorem ComputeUnit.addq (dst : Reg) (imm : BitVec 16) (size : Size) :
    ComputeUnit.Statement (.addq dst imm size) :=
  ComputeUnit.holds _

theorem ComputeUnit.subq (dst : Reg) (imm : BitVec 16) (size : Size) :
    ComputeUnit.Statement (.subq dst imm size) :=
  ComputeUnit.holds _

theorem ComputeUnit.mulsq (dst : Reg) (imm : BitVec 16) (size : Size) :
    ComputeUnit.Statement (.mulsq dst imm size) :=
  ComputeUnit.holds _

theorem ComputeUnit.muluq (dst : Reg) (imm : BitVec 16) (size : Size) :
    ComputeUnit.Statement (.muluq dst imm size) :=
  ComputeUnit.holds _

theorem ComputeUnit.divsq (dst : Reg) (imm : BitVec 16) (size : Size) :
    ComputeUnit.Statement (.divsq dst imm size) :=
  ComputeUnit.holds _

theorem ComputeUnit.divuq (dst : Reg) (imm : BitVec 16) (size : Size) :
    ComputeUnit.Statement (.divuq dst imm size) :=
  ComputeUnit.holds _

theorem ComputeUnit.andq (dst : Reg) (imm : BitVec 16) (size : Size) :
    ComputeUnit.Statement (.andq dst imm size) :=
  ComputeUnit.holds _

theorem ComputeUnit.orq (dst : Reg) (imm : BitVec 16) (size : Size) :
    ComputeUnit.Statement (.orq dst imm size) :=
  ComputeUnit.holds _

theorem ComputeUnit.xorq (dst : Reg) (imm : BitVec 16) (size : Size) :
    ComputeUnit.Statement (.xorq dst imm size) :=
  ComputeUnit.holds _

theorem ComputeUnit.aslq (dst : Reg) (imm : BitVec 16) (size : Size) :
    ComputeUnit.Statement (.aslq dst imm size) :=
  ComputeUnit.holds _

theorem ComputeUnit.lslq (dst : Reg) (imm : BitVec 16) (size : Size) :
    ComputeUnit.Statement (.lslq dst imm size) :=
  ComputeUnit.holds _

theorem ComputeUnit.asrq (dst : Reg) (imm : BitVec 16) (size : Size) :
    ComputeUnit.Statement (.asrq dst imm size) :=
  ComputeUnit.holds _

theorem ComputeUnit.lsrq (dst : Reg) (imm : BitVec 16) (size : Size) :
    ComputeUnit.Statement (.lsrq dst imm size) :=
  ComputeUnit.holds _

theorem ComputeUnit.movei (dst : Reg) (imm : BitVec 22) :
    ComputeUnit.Statement (.movei dst imm) :=
  ComputeUnit.holds _

theorem ComputeUnit.lddma (ramReg : Reg) (dsReg : Reg) (ramBase : BitVec 12) (dsBase : BitVec 12) (long : Bool) :
    ComputeUnit.Statement (.lddma ramReg dsReg ramBase dsBase long) :=
  ComputeUnit.holds _

theorem ComputeUnit.stdma (ramReg : Reg) (dsReg : Reg) (ramBase : BitVec 12) (dsBase : BitVec 12) (long : Bool) :
    ComputeUnit.Statement (.stdma ramReg dsReg ramBase dsBase long) :=
  ComputeUnit.holds _

theorem ComputeUnit.lddmar (dsReg : Reg) (ramReg : Reg) (blocks : BitVec 12) :
    ComputeUnit.Statement (.lddmar dsReg ramReg blocks) :=
  ComputeUnit.holds _

theorem ComputeUnit.stdmar (dsReg : Reg) (ramReg : Reg) (blocks : BitVec 12) :
    ComputeUnit.Statement (.stdmar dsReg ramReg blocks) :=
  ComputeUnit.holds _

theorem ComputeUnit.dmair (isReg : Reg) (ramReg : Reg) (blocks : BitVec 12) :
    ComputeUnit.Statement (.dmair isReg ramReg blocks) :=
  ComputeUnit.holds _

theorem ComputeUnit.wait :
    ComputeUnit.Statement (.wait) :=
  ComputeUnit.holds _

theorem ComputeUnit.faddVv (dst : VReg) (left : VReg) (right : VReg) (lanes : Lanes) :
    ComputeUnit.Statement (.faddVv dst left right lanes) :=
  ComputeUnit.holds _

theorem ComputeUnit.fsubVv (dst : VReg) (left : VReg) (right : VReg) (lanes : Lanes) :
    ComputeUnit.Statement (.fsubVv dst left right lanes) :=
  ComputeUnit.holds _

theorem ComputeUnit.fmulVv (dst : VReg) (left : VReg) (right : VReg) (lanes : Lanes) :
    ComputeUnit.Statement (.fmulVv dst left right lanes) :=
  ComputeUnit.holds _

theorem ComputeUnit.fmuladdVv (dst : VReg) (left : VReg) (right : VReg) (lanes : Lanes) :
    ComputeUnit.Statement (.fmuladdVv dst left right lanes) :=
  ComputeUnit.holds _

theorem ComputeUnit.faddVf (dst : VReg) (left : VReg) (right : FReg) (lanes : Lanes) :
    ComputeUnit.Statement (.faddVf dst left right lanes) :=
  ComputeUnit.holds _

theorem ComputeUnit.fsubVf (dst : VReg) (left : VReg) (right : FReg) (lanes : Lanes) :
    ComputeUnit.Statement (.fsubVf dst left right lanes) :=
  ComputeUnit.holds _

theorem ComputeUnit.fmulVf (dst : VReg) (left : VReg) (right : FReg) (lanes : Lanes) :
    ComputeUnit.Statement (.fmulVf dst left right lanes) :=
  ComputeUnit.holds _

theorem ComputeUnit.fmuladdVf (dst : VReg) (left : VReg) (right : FReg) (lanes : Lanes) :
    ComputeUnit.Statement (.fmuladdVf dst left right lanes) :=
  ComputeUnit.holds _

theorem ComputeUnit.fmulva (vec : VReg) (float : FReg) (lanes : Lanes) :
    ComputeUnit.Statement (.fmulva vec float lanes) :=
  ComputeUnit.holds _

theorem ComputeUnit.fmuladdva (vec : VReg) (float : FReg) (lanes : Lanes) :
    ComputeUnit.Statement (.fmuladdva vec float lanes) :=
  ComputeUnit.holds _

theorem ComputeUnit.fmuladdvao (dst : VReg) (vec : VReg) (float : FReg) (lanes : Lanes) :
    ComputeUnit.Statement (.fmuladdvao dst vec float lanes) :=
  ComputeUnit.holds _

theorem ComputeUnit.fipr (dst : FReg) (vec1 : VReg) (vec2 : VReg) (lanes : Lanes) :
    ComputeUnit.Statement (.fipr dst vec1 vec2 lanes) :=
  ComputeUnit.holds _

theorem ComputeUnit.faddD (dst : DReg) (left : DReg) (right : DReg) :
    ComputeUnit.Statement (.faddD dst left right) :=
  ComputeUnit.holds _

theorem ComputeUnit.fsubD (dst : DReg) (left : DReg) (right : DReg) :
    ComputeUnit.Statement (.fsubD dst left right) :=
  ComputeUnit.holds _

theorem ComputeUnit.fmulD (dst : DReg) (left : DReg) (right : DReg) :
    ComputeUnit.Statement (.fmulD dst left right) :=
  ComputeUnit.holds _

theorem ComputeUnit.fmuladdD (dst : DReg) (left : DReg) (right : DReg) :
    ComputeUnit.Statement (.fmuladdD dst left right) :=
  ComputeUnit.holds _

theorem ComputeUnit.cvtF2d (dst : DReg) (src : FReg) :
    ComputeUnit.Statement (.cvtF2d dst src) :=
  ComputeUnit.holds _

theorem ComputeUnit.cvtD2f (dst : FReg) (src : DReg) :
    ComputeUnit.Statement (.cvtD2f dst src) :=
  ComputeUnit.holds _

theorem ComputeUnit.itof0 (dst : VReg) (src : Reg) (lanes : Lanes) :
    ComputeUnit.Statement (.itof0 dst src lanes) :=
  ComputeUnit.holds _

theorem ComputeUnit.itof4 (dst : VReg) (src : Reg) (lanes : Lanes) :
    ComputeUnit.Statement (.itof4 dst src lanes) :=
  ComputeUnit.holds _

theorem ComputeUnit.itof8 (dst : VReg) (src : Reg) (lanes : Lanes) :
    ComputeUnit.Statement (.itof8 dst src lanes) :=
  ComputeUnit.holds _

theorem ComputeUnit.itof15 (dst : VReg) (src : Reg) (lanes : Lanes) :
    ComputeUnit.Statement (.itof15 dst src lanes) :=
  ComputeUnit.holds _

theorem ComputeUnit.ftoi0 (dst : Reg) (src : VReg) (lanes : Lanes) :
    ComputeUnit.Statement (.ftoi0 dst src lanes) :=
  ComputeUnit.holds _

theorem ComputeUnit.ftoi4 (dst : Reg) (src : VReg) (lanes : Lanes) :
    ComputeUnit.Statement (.ftoi4 dst src lanes) :=
  ComputeUnit.holds _

theorem ComputeUnit.ftoi8 (dst : Reg) (src : VReg) (lanes : Lanes) :
    ComputeUnit.Statement (.ftoi8 dst src lanes) :=
  ComputeUnit.holds _

theorem ComputeUnit.ftoi15 (dst : Reg) (src : VReg) (lanes : Lanes) :
    ComputeUnit.Statement (.ftoi15 dst src lanes) :=
  ComputeUnit.holds _

theorem ComputeUnit.cvtI2f (dst : FReg) (src : Reg) (size : Size) :
    ComputeUnit.Statement (.cvtI2f dst src size) :=
  ComputeUnit.holds _

theorem ComputeUnit.cvtF2i (dst : Reg) (src : FReg) (size : Size) :
    ComputeUnit.Statement (.cvtF2i dst src size) :=
  ComputeUnit.holds _

theorem ComputeUnit.cvtI2d (dst : DReg) (src : Reg) (size : Size) :
    ComputeUnit.Statement (.cvtI2d dst src size) :=
  ComputeUnit.holds _

theorem ComputeUnit.cvtD2i (dst : Reg) (src : DReg) (size : Size) :
    ComputeUnit.Statement (.cvtD2i dst src size) :=
  ComputeUnit.holds _

theorem ComputeUnit.fdiv (dst : FReg) (left : FReg) (right : FReg) :
    ComputeUnit.Statement (.fdiv dst left right) :=
  ComputeUnit.holds _

theorem ComputeUnit.fsqrt (dst : FReg) (source1 : FReg) (source2 : FReg) :
    ComputeUnit.Statement (.fsqrt dst source1 source2) :=
  ComputeUnit.holds _

theorem ComputeUnit.ddiv (dst : DReg) (left : DReg) (right : DReg) :
    ComputeUnit.Statement (.ddiv dst left right) :=
  ComputeUnit.holds _

theorem ComputeUnit.dsqrt (dst : DReg) (source1 : DReg) (source2 : DReg) :
    ComputeUnit.Statement (.dsqrt dst source1 source2) :=
  ComputeUnit.holds _

theorem ComputeUnit.movefi (dst : FReg) (imm : BitVec 21) :
    ComputeUnit.Statement (.movefi dst imm) :=
  ComputeUnit.holds _

theorem ComputeUnit.movedi (dst : DReg) (imm : BitVec 22) :
    ComputeUnit.Statement (.movedi dst imm) :=
  ComputeUnit.holds _

theorem ComputeUnit.movevi (dst : VReg) (imm : BitVec 23) :
    ComputeUnit.Statement (.movevi dst imm) :=
  ComputeUnit.holds _

end Sys2Proof.Laws
end

