-- ==== Sys2Proof/Tests/Slice0.lean ====
section
/-! SUPPORT. The model's own tests. Words and results are those that the Example entries of 41_bru.md to 45_vfpu.md and
the tables of 95_test_vectors.md print; a witness test shows a state and operands that meet the hypotheses of the
obligation it names. -/

namespace Sys2Proof.Tests

open Sys2Proof Sys2Proof.Machine

/-! ### Helpers -/

/-- The state after an instruction, or the state before it where it stops. -/
def after (i : Instr) (s : State) : State :=
  match exec i s with
  | .next t => t
  | .fault _ => s
  | .refused _ => s

/-- Whether an outcome is a next state. -/
def runs {α : Type} (r : Result α) : Bool :=
  match r with
  | .next _ => true
  | .fault _ => false
  | .refused _ => false

/-- The fault of an outcome. -/
def faultOf {α : Type} (r : Result α) : Option Fault :=
  match r with
  | .fault e => some e
  | .next _ => none
  | .refused _ => none

/-- The refusal of an outcome. -/
def refusalOf {α : Type} (r : Result α) : Option Refusal :=
  match r with
  | .refused e => some e
  | .next _ => none
  | .fault _ => none

/-- The answer of an outcome. -/
def answerOf {α : Type} (r : Result α) : Option α :=
  match r with
  | .next a => some a
  | .fault _ => none
  | .refused _ => none

/-- The state with bytes in a space. -/
def put (s : State) (sp : Space) (a : Nat) (bs : List Byte) : State := s.setMem sp ((s.mem sp).writeBytes a bs)

/-- The state with opcodes in ISRAM at pc. -/
def program (s : State) (ws : List Word) : State := put s .isram s.pc.toNat (ws.flatMap bytesOfWord)

/-- A transfer of 32 bytes from RAM 0 to DSRAM 64. -/
def transfer : Transfer := ⟨.ram, 0, .dsram, 64, 32, []⟩

/-- The reset state with other parameters. -/
def underParams (p : Params) : State := { State.reset with params := p }

/-- A state with that transfer in flight and its source in place. -/
def moving : State := (put State.reset .ram 0 (List.replicate 32 7)).setDmaq [transfer]

/-! ### Well-formedness: an ill-formed term for each check -/

theorem test_wf_outi_size : (Instr.outi 0 0 .l).wf = false ∧ (Instr.outi 0 0 .q).wf = false := by decide

theorem test_wf_vector_base :
    (Instr.ldmv 0 55 0 false).wf = false ∧ (Instr.stmv 0 55 0 false).wf = false ∧
      (Instr.ldcv 0 55 0 false).wf = false ∧ (Instr.stcv 0 55 0 false).wf = false := by decide

theorem test_wf_float_base :
    (Instr.ldmf 0 59 0 false).wf = false ∧ (Instr.stmf 0 59 0 false).wf = false ∧
      (Instr.ldcf 0 59 0 false).wf = false ∧ (Instr.stcf 0 59 0 false).wf = false := by decide

theorem test_wf_double_base :
    (Instr.ldmd 0 59 0 false).wf = false ∧ (Instr.stmd 0 59 0 false).wf = false ∧
      (Instr.ldcd 0 59 0 false).wf = false ∧ (Instr.stcd 0 59 0 false).wf = false := by decide

theorem test_wf_transfer_registers :
    (Instr.lddma 57 60 0 0 false).wf = false ∧ (Instr.lddma 60 60 0 0 false).wf = false ∧
      (Instr.lddma 58 59 0 0 false).wf = false ∧ (Instr.stdma 57 60 0 0 false).wf = false ∧
      (Instr.stdma 58 59 0 0 false).wf = false := by decide

theorem test_wf_slots :
    Instr.ret.legalIn 1 = false ∧ (Instr.stm 0 0 0 .b false).legalIn 0 = false ∧ Instr.xchg.legalIn 1 = false ∧
      Instr.wait.legalIn 0 = false ∧ (Instr.ldm 0 0 0 .b false).legalIn 2 = false ∧
      (Instr.fdiv 0 0 0).legalIn 1 = false ∧ (Instr.cvtF2d 0 0).legalIn 3 = false := by decide

theorem test_wf_bundle :
    wfBundle [.nop false] = false ∧ wfBundle [.nop false, .ret] = false ∧ wfBundle [.outi 0 0 .b, .nop false] = false ∧
      wfBundle [.nop false, .nop false, .wait, .nop false] = false ∧ wfBundle [.ret, .wait] = true := by decide

/-! ### Decoding: the printed word of every constructor -/

theorem test_decode_compares :
    decode 0 0x04200300#32 = .ok (.cmp 1 2 .q) ∧ decode 0 0x04200000#32 = .ok (.cmp 1 2 .b) ∧
      decode 0 0x08000034#32 = .ok (.cmpi 2 0 .q) ∧ decode 0 0x1400FA14#32 = .ok (.cmpi 5 1000 .w) ∧
      decode 0 0x06100010#32 = .ok (.fcmp 3 4) ∧ decode 0 0x027F0008#32 = .ok (.fcmpi 1 0x7F000) ∧
      decode 0 0x0C400020#32 = .ok (.dcmp 3 4) ∧ decode 0 0x04FFC00C#32 = .ok (.dcmpi 1 0x0FFC00) := by decide

theorem test_decode_branches :
    decode 0 0x03FFD030#32 = .ok (.bne 0x3FFD) ∧ decode 0 0x03FFD130#32 = .ok (.beq 0x3FFD) ∧
      decode 0 0x03FFD230#32 = .ok (.bl 0x3FFD) ∧ decode 0 0x03FFD330#32 = .ok (.ble 0x3FFD) ∧
      decode 0 0x03FFD430#32 = .ok (.bg 0x3FFD) ∧ decode 0 0x03FFD530#32 = .ok (.bge 0x3FFD) ∧
      decode 0 0x03FFD630#32 = .ok (.bls 0x3FFD) ∧ decode 0 0x03FFD730#32 = .ok (.bles 0x3FFD) ∧
      decode 0 0x03FFD830#32 = .ok (.bgs 0x3FFD) ∧ decode 0 0x03FFD930#32 = .ok (.bges 0x3FFD) := by decide

theorem test_decode_jumps :
    decode 0 0x000080B0#32 = .ok (.call 8) ∧ decode 0 0x000081B0#32 = .ok (.jmp 8) ∧
      decode 0 0x03FFE2B0#32 = .ok (.callr 0x3FFE) ∧ decode 0 0x000053B0#32 = .ok (.jmpr 5) ∧
      decode 0 0x000000F0#32 = .ok .ret := by decide

theorem test_decode_integer_accesses :
    decode 0 0x0FC080D1#32 = .ok (.ldm 3 60 128 .q true) ∧ decode 1 0x11E00261#32 = .ok (.stm 4 30 2 .w false) ∧
      decode 0 0x09000185#32 = .ok (.ldmx 2 false 0x8000 .q) ∧
      decode 1 0x0C1FFEC5#32 = .ok (.stmx 3 false 0x0FFF .w) ∧ decode 1 0x142A0015#32 = .ok (.inp 5 42 .b) ∧
      decode 1 0x080200D5#32 = .ok (.out 2 2 .w) ∧ decode 1 0x0403FFA5#32 = .ok (.outi 4 0x03FF .w) ∧
      decode 0 0x0FC080D9#32 = .ok (.ldc 3 60 128 .q true) ∧ decode 1 0x11E00269#32 = .ok (.stc 4 30 2 .w false) := by
  decide

theorem test_decode_floating_accesses :
    decode 0 0x08004035#32 = .ok (.ldmv 1 56 32 false) ∧ decode 1 0x11000175#32 = .ok (.stmv 2 57 0 true) ∧
      decode 0 0xFF0021B5#32 = .ok (.ldcv 31 63 16 true) ∧ decode 1 0x040060F5#32 = .ok (.stcv 0 60 48 false) ∧
      decode 0 0x0600080D#32 = .ok (.ldmf 3 60 8 false) ∧ decode 1 0xFE8004CD#32 = .ok (.stmf 127 61 4 true) ∧
      decode 0 0x030000AD#32 = .ok (.ldcf 1 62 0 true) ∧ decode 1 0x05800C6D#32 = .ok (.stcf 2 63 12 false) ∧
      decode 0 0x0C00081D#32 = .ok (.ldmd 3 60 8 false) ∧ decode 1 0xFD0010DD#32 = .ok (.stmd 63 61 16 true) ∧
      decode 0 0x060000BD#32 = .ok (.ldcd 1 62 0 true) ∧ decode 1 0x0B00187D#32 = .ok (.stcd 2 63 24 false) := by
  decide

theorem test_decode_alu_registers :
    decode 3 0x0C10B002#32 = .ok (.add 3 1 2 .q) ∧ decode 3 0x0C10B102#32 = .ok (.sub 3 1 2 .q) ∧
      decode 3 0x0C109202#32 = .ok (.muls 3 1 2 .w) ∧ decode 3 0x0C10A302#32 = .ok (.mulu 3 1 2 .l) ∧
      decode 3 0x0C10B402#32 = .ok (.divs 3 1 2 .q) ∧ decode 3 0x0C10B502#32 = .ok (.divu 3 1 2 .q) ∧
      decode 3 0x0C10B602#32 = .ok (.and 3 1 2 .q) ∧ decode 3 0x0C10B702#32 = .ok (.or 3 1 2 .q) ∧
      decode 3 0x0C10B802#32 = .ok (.xor 3 1 2 .q) ∧ decode 3 0x0C108902#32 = .ok (.asl 3 1 2 .b) ∧
      decode 3 0x0C10BA02#32 = .ok (.lsl 3 1 2 .q) ∧ decode 3 0x0C108B02#32 = .ok (.asr 3 1 2 .b) ∧
      decode 3 0x0C108C02#32 = .ok (.lsr 3 1 2 .b) := by decide

theorem test_decode_alu_ten_bits :
    decode 2 0x04200706#32 = .ok (.addi 1 2 1 .q) ∧ decode 2 0x04200416#32 = .ok (.subi 1 2 1 .b) ∧
      decode 2 0x042FFF26#32 = .ok (.mulsi 1 2 1023 .q) ∧ decode 2 0x04201F36#32 = .ok (.mului 1 2 7 .q) ∧
      decode 2 0x04200E46#32 = .ok (.divsi 1 2 3 .l) ∧ decode 2 0x04200E56#32 = .ok (.divui 1 2 3 .l) ∧
      decode 2 0x042FFF66#32 = .ok (.andi 1 2 1023 .q) ∧ decode 2 0x042FFF76#32 = .ok (.ori 1 2 1023 .q) ∧
      decode 2 0x042FFD86#32 = .ok (.xori 1 2 1023 .w) ∧ decode 2 0x04201396#32 = .ok (.asli 1 2 4 .q) ∧
      decode 2 0x042005A6#32 = .ok (.lsli 1 2 1 .w) ∧ decode 2 0x04200BB6#32 = .ok (.asri 1 2 2 .q) ∧
      decode 2 0x0420F3C6#32 = .ok (.lsri 1 2 60 .q) := by decide

theorem test_decode_alu_sixteen_bits :
    decode 1 0x07FFFF0A#32 = .ok (.addq 1 65535 .q) ∧ decode 1 0x0400071A#32 = .ok (.subq 1 1 .q) ∧
      decode 1 0x0404012A#32 = .ok (.mulsq 1 256 .w) ∧ decode 1 0x040FA33A#32 = .ok (.muluq 1 1000 .q) ∧
      decode 1 0x04001F4A#32 = .ok (.divsq 1 7 .q) ∧ decode 1 0x0400035A#32 = .ok (.divuq 1 0 .q) ∧
      decode 1 0x07FC036A#32 = .ok (.andq 1 65280 .q) ∧ decode 1 0x0600037A#32 = .ok (.orq 1 32768 .q) ∧
      decode 1 0x0403FC8A#32 = .ok (.xorq 1 255 .b) ∧ decode 1 0x0401039A#32 = .ok (.aslq 1 64 .q) ∧
      decode 1 0x04007EAA#32 = .ok (.lslq 1 31 .l) ∧ decode 1 0x04007EBA#32 = .ok (.asrq 1 31 .l) ∧
      decode 1 0x04007ECA#32 = .ok (.lsrq 1 31 .l) := by decide

theorem test_decode_control_and_agu :
    decode 0 0x00000022#32 = .ok .xchg ∧ decode 0 0x00000062#32 = .ok (.nop false) ∧
      decode 3 0x000000E2#32 = .ok (.nop true) ∧ decode 0 0x17FFFFFE#32 = .ok (.movei 5 0x3FFFFF) ∧
      decode 1 0x00200110#32 = .ok (.lddma 58 60 2 1 true) ∧
      decode 1 0xFFF000E8#32 = .ok (.stdma 59 63 0xFFF 0 false) ∧ decode 1 0x28B00404#32 = .ok (.lddmar 10 11 4) ∧
      decode 1 0x28B0040C#32 = .ok (.stdmar 10 11 4) ∧ decode 1 0x30D01014#32 = .ok (.dmair 12 13 16) ∧
      decode 1 0x000000F4#32 = .ok .wait := by decide

theorem test_decode_vectors :
    decode 0 0x088600C3#32 = .ok (.faddVv 1 2 3 .xyzw) ∧ decode 0 0x088604C3#32 = .ok (.fsubVv 1 2 3 .xyzw) ∧
      decode 0 0x088608C3#32 = .ok (.fmulVv 1 2 3 .xyzw) ∧ decode 0 0x08860CC3#32 = .ok (.fmuladdVv 1 2 3 .xyzw) ∧
      decode 1 0x088281C3#32 = .ok (.faddVf 1 2 5 .xyzw) ∧ decode 1 0x088285C3#32 = .ok (.fsubVf 1 2 5 .xyzw) ∧
      decode 1 0x088289C3#32 = .ok (.fmulVf 1 2 5 .xyzw) ∧ decode 1 0x08828DC3#32 = .ok (.fmuladdVf 1 2 5 .xyzw) ∧
      decode 0 0x008282C3#32 = .ok (.fmulva 2 5 .xyzw) ∧ decode 0 0x008286C3#32 = .ok (.fmuladdva 2 5 .xyzw) ∧
      decode 0 0x20828AC3#32 = .ok (.fmuladdvao 4 2 5 .xyzw) ∧ decode 0 0x20828E83#32 = .ok (.fipr 5 2 4 .xyz) := by
  decide

theorem test_decode_doubles_and_division :
    decode 1 0x0420C303#32 = .ok (.faddD 1 2 3) ∧ decode 1 0x0420C343#32 = .ok (.fsubD 1 2 3) ∧
      decode 1 0x0420C383#32 = .ok (.fmulD 1 2 3) ∧ decode 1 0x0420C3C3#32 = .ok (.fmuladdD 1 2 3) ∧
      decode 0 0x020C1333#32 = .ok (.fdiv 1 2 3) ∧ decode 0 0x02081373#32 = .ok (.fsqrt 1 2 2) ∧
      decode 0 0x043083B3#32 = .ok (.ddiv 1 2 3) ∧ decode 0 0x042083F3#32 = .ok (.dsqrt 1 2 2) := by decide

theorem test_decode_conversions :
    decode 0 0x04100023#32 = .ok (.cvtF2d 1 2) ∧ decode 0 0x04100063#32 = .ok (.cvtD2f 2 1) ∧
      decode 0 0x044000F3#32 = .ok (.itof0 2 1 .xyzw) ∧ decode 0 0x044010F3#32 = .ok (.itof4 2 1 .xyzw) ∧
      decode 0 0x044020F3#32 = .ok (.itof8 2 1 .xyzw) ∧ decode 0 0x044030F3#32 = .ok (.itof15 2 1 .xyzw) ∧
      decode 0 0x044040F3#32 = .ok (.ftoi0 1 2 .xyzw) ∧ decode 0 0x044050F3#32 = .ok (.ftoi4 1 2 .xyzw) ∧
      decode 0 0x044060F3#32 = .ok (.ftoi8 1 2 .xyzw) ∧ decode 0 0x044070F3#32 = .ok (.ftoi15 1 2 .xyzw) ∧
      decode 0 0x041001F3#32 = .ok (.cvtI2f 2 1 .q) ∧ decode 0 0x041005B3#32 = .ok (.cvtF2i 1 2 .l) ∧
      decode 0 0x042002F3#32 = .ok (.cvtI2d 2 1 .q) ∧ decode 0 0x042006F3#32 = .ok (.cvtD2i 1 2 .q) := by decide

theorem test_decode_floating_immediates :
    decode 1 0x027F0007#32 = .ok (.movefi 1 0x7F000) ∧ decode 1 0x05804007#32 = .ok (.movefi 2 0x180400) ∧
      decode 1 0x04FFC00B#32 = .ok (.movedi 1 0x0FFC00) ∧ decode 1 0x09FC000F#32 = .ok (.movevi 1 0x1FC000) := by
  decide

/-- 30_encoding.md R152: the all-zero word. -/
theorem test_decode_zero_word :
    decode 0 0#32 = .ok (.cmp 0 0 .b) ∧ decode 1 0#32 = .ok (.lddma 58 60 0 0 false) ∧
      decode 2 0#32 = .error .unitNotInSlot ∧ decode 3 0#32 = .error .unitNotInSlot := by decide

/-- 30_encoding.md R150, R151: a store in slot 0, WAIT with bit 3, XCHG and VDIV in slot 1, the VFPU moves. -/
theorem test_decode_illegal :
    decode 0 0x11E00261#32 = .error .storeSlot ∧ decode 1 0x000000FC#32 = .error .reservedBits ∧
      decode 1 0x00000022#32 = .error .xchgSlot ∧ decode 1 0x020C1333#32 = .error .vdivSlot ∧
      decode 0 0x00000013#32 = .error .vfpuMoves := by decide

/-- 44_agu.md R356: DMAIR with Store = 1; 00_scope.md R8: the bytes of the source's first example. -/
theorem test_decode_bytes :
    decode 1 0x30D0101C#32 = .error .dmairStore ∧
      decodeBytes 0 [0xD1, 0x80, 0xC0, 0x0F] = .ok (.ldm 3 60 128 .q true) := by decide

/-- One word of each family in bits, written from the format tables of 30_encoding.md R110 (CMP), R119 (LDM), R128
(ADD), R133 (LDDMA), R135 (FADD.VV) and R143 (FDIV). -/
theorem test_decode_bits :
    decode 0 0b00000100001000000000001100000000#32 = .ok (.cmp 1 2 .q) ∧
      decode 0 0b00001111110000001000000011010001#32 = .ok (.ldm 3 60 128 .q true) ∧
      decode 2 0b00001100000100001011000000000010#32 = .ok (.add 3 1 2 .q) ∧
      decode 1 0b00000000001000000000000100010000#32 = .ok (.lddma 58 60 2 1 true) ∧
      decode 1 0b00001000100001100000000011000011#32 = .ok (.faddVv 1 2 3 .xyzw) ∧
      decode 0 0b00000010000011000001001100110011#32 = .ok (.fdiv 1 2 3) := by decide

theorem test_table_word :
    decodeTableWord 32 0xF4 = some .wait ∧ decodeTableWord 32 0x04200300 = some (.cmp 1 2 .q) ∧
      decodeTableWord 32 0x0403FFA5 = some (.outi 4 0x03FF .w) := by decide

/-! ### Instructions: the printed examples -/

theorem test_cmp_orders :
    let s := after (.cmp 1 2 .b) ((State.reset.setX 1 0x80).setX 2 1)
    s.flagZ = false ∧ s.flagS = true ∧ s.flagU = false := by decide

theorem test_cmp_low_bits : (after (.cmp 1 2 .b) ((State.reset.setX 1 0x1FF).setX 2 0xFF)).flagZ = true := by decide

theorem test_cmpi_signed_byte :
    let s := after (.cmpi 1 0x1FF .b) (State.reset.setX 1 0)
    s.flagZ = false ∧ s.flagS = false ∧ s.flagU = true := by decide

theorem test_fcmp_less :
    let s := after (.fcmp 3 4) ((State.reset.setF 3 0x3F800000).setF 4 0x40000000)
    s.flagZ = false ∧ s.flagS = true := by decide

theorem test_fcmp_signed_zeros :
    let s := after (.fcmp 3 4) ((State.reset.setF 3 0x80000000).setF 4 0)
    s.flagZ = true ∧ s.flagS = false := by decide

theorem test_dcmpi_equal :
    (after (.dcmpi 1 0x0FFC00) (State.reset.setD 1 0x3FF0000000000000)).flagZ = true := by decide

theorem test_bne_back : (after (.bne 0x3FFD) (State.reset.setPc 0x28)).pc = 0x10 := by decide

theorem test_bgs_not_taken : (after (.bgs 5) ((State.reset.setPc 8).setFlags false true false)).pc = 0x10 := by decide

theorem test_call_and_ret :
    let s := after (.call 8) (State.reset.setPc 0x10)
    s.pc = 0x40 ∧ s.rs = [0x18] ∧ (after .ret s).pc = 0x18 ∧ (after .ret s).rs = [] := by decide

theorem test_callr_back :
    let s := after (.callr 0x3FFE) (State.reset.setPc 0x30)
    s.pc = 0x20 ∧ s.rs = [0x38] := by decide

theorem test_jmpr_forward : (after (.jmpr 5) (State.reset.setPc 8)).pc = 0x30 := by decide

/-- The DSRAM bytes of the LDM example. -/
def loadExample : State :=
  (put State.reset .dsram 0x180 [0x88, 0x77, 0x66, 0x55, 0x44, 0x33, 0x22, 0x11]).setX 60 0x100

theorem test_ldm_increments :
    let s := after (.ldm 3 60 128 .q true) loadExample
    s.getX 3 = 0x1122334455667788 ∧ s.getX 60 = 0x108 ∧ s.pc = 8 := by decide

theorem test_stm_low_bytes :
    let s := after (.stm 4 30 2 .w false) ((State.reset.setX 30 0x40).setX 4 0xAABBCCDD)
    s.dsram = [(0x42, 0xDD), (0x43, 0xCC)] ∧ s.getX 30 = 0x40 := by decide

theorem test_ldmv_lanes :
    (after (.ldmv 1 56 32 false) (put State.reset .dsram 32
      [0, 0, 0x80, 0x3F, 0, 0, 0, 0x40, 0, 0, 0x40, 0x40, 0, 0, 0x80, 0x40])).getV 1 =
      ⟨0x3F800000, 0x40000000, 0x40400000, 0x40800000⟩ := by decide

theorem test_stcd_image :
    (after (.stcd 2 63 24 false) (State.reset.setD 2 0x3FF0000000000001)).cache =
      [(24, 1), (25, 0), (26, 0), (27, 0), (28, 0), (29, 0), (30, 0xF0), (31, 0x3F)] := by decide

theorem test_out_event : (after (.out 2 2 .w) (State.reset.setX 2 0x12345)).ioLog = [.output 2 2 0x2345] := by decide

theorem test_outi_event : (after (.outi 255 0x1241 .b) State.reset).ioLog = [.output 255 1 0x41] := by decide

theorem test_in_answer :
    let s := after (.inp 5 42 .b) { State.reset with ioInputs := [0x1FF] }
    s.getX 5 = 0xFF ∧ s.ioLog = [.input 42 1 0xFF] := by decide

theorem test_add_wraps :
    (after (.add 3 1 2 .q) ((State.reset.setX 1 0xFFFFFFFFFFFFFFFF).setX 2 2)).getX 3 = 1 := by decide

theorem test_sub_wraps : (after (.sub 3 1 2 .q) ((State.reset.setX 1 5).setX 2 7)).getX 3 = 0xFFFFFFFFFFFFFFFE := by
  decide

theorem test_muls_word : (after (.muls 3 1 2 .w) ((State.reset.setX 1 0xFFFF).setX 2 3)).getX 3 = 0xFFFD := by decide

theorem test_mului : (after (.mului 1 2 7 .q) (State.reset.setX 2 6)).getX 1 = 0x2A := by decide

theorem test_divs_truncates :
    (after (.divs 3 1 2 .q) ((State.reset.setX 1 0xFFFFFFFFFFFFFFF9).setX 2 2)).getX 3 = 0xFFFFFFFFFFFFFFFD := by
  decide

theorem test_divui_long : (after (.divui 1 2 3 .l) (State.reset.setX 2 0xFFFFFFF8)).getX 1 = 0x55555552 := by decide

theorem test_and : (after (.and 3 1 2 .q) ((State.reset.setX 1 0xF0F0).setX 2 0xFF00)).getX 3 = 0xF000 := by decide

theorem test_orq : (after (.orq 1 32768 .q) State.reset).getX 1 = 0x8000 := by decide

theorem test_xori_word : (after (.xori 1 2 1023 .w) (State.reset.setX 2 0xFFFF)).getX 1 = 0xFC00 := by decide

theorem test_asr_byte : (after (.asr 3 1 2 .b) ((State.reset.setX 1 0x80).setX 2 3)).getX 3 = 0xF0 := by decide

theorem test_lsr_byte : (after (.lsr 3 1 2 .b) ((State.reset.setX 1 0x80).setX 2 3)).getX 3 = 0x10 := by decide

theorem test_lsli_word : (after (.lsli 1 2 1 .w) (State.reset.setX 2 0x8001)).getX 1 = 2 := by decide

theorem test_asl_byte : (after (.asl 3 1 2 .b) ((State.reset.setX 1 0x81).setX 2 1)).getX 3 = 2 := by decide

theorem test_movei : (after (.movei 5 0x3FFFFF) State.reset).getX 5 = 0x3FFFFF := by decide

theorem test_xchg :
    let s := after .xchg State.reset
    s.xchg = true ∧ s.pc = 8 ∧ (after .xchg s).pc = 24 := by decide

theorem test_lddma_record :
    (after (.lddma 58 60 2 1 true) State.reset).dmaq = [⟨.ram, 64, .dsram, 32, 64, []⟩] := by decide

theorem test_dmair_record :
    (after (.dmair 12 13 16) (State.reset.setX 12 4)).dmaq = [⟨.ram, 0, .isram, 128, 512, []⟩] := by decide

/-- The vectors of the VFPU examples: v2 = (1, 2, 3, 4), v3 = 0.5 in every lane, f5 = 0.5. -/
def vectorExample : State :=
  ((State.reset.setV 2 ⟨0x3F800000, 0x40000000, 0x40400000, 0x40800000⟩).setV 3
    ⟨0x3F000000, 0x3F000000, 0x3F000000, 0x3F000000⟩).setF 5 0x3F000000

theorem test_fadd_vv_two_lanes :
    (after (.faddVv 4 2 3 .xy) (vectorExample.setV 4 ⟨0x41100000, 0x41100000, 0x41100000, 0x41100000⟩)).getV 4 =
      ⟨0x3FC00000, 0x40200000, 0x41100000, 0x41100000⟩ := by decide

theorem test_fsub_vf :
    (after (.fsubVf 6 2 5 .xyzw) vectorExample).getV 6 = ⟨0x3F000000, 0x3FC00000, 0x40200000, 0x40600000⟩ := by decide

theorem test_accumulator_chain :
    let s := after (.fmuladdva 2 5 .xyzw) (after (.fmulva 2 5 .xyzw) vectorExample)
    s.acc = ⟨0x3F800000, 0x40000000, 0x40400000, 0x40800000⟩ ∧
      (after (.fmuladdvao 4 2 5 .xyzw) s).getV 4 = ⟨0x3FC00000, 0x40400000, 0x40900000, 0x40C00000⟩ := by decide

theorem test_fipr_three_lanes :
    (after (.fipr 5 2 4 .xyz)
      (vectorExample.setV 4 ⟨0x3FC00000, 0x40400000, 0x40900000, 0x40C00000⟩)).getF 5 = 0x41A80000 := by decide

theorem test_fmuladd_d :
    (after (.fmuladdD 1 2 3) (((State.reset.setD 1 0x4008000000000000).setD 2 0x3FF0000000000000).setD 3
      0x3FE0000000000000)).getD 1 = 0x400C000000000000 := by decide

/-- 10_state.md R37: two floats, a vector lane and a double written under the other settings of FPR_OVERLAY. -/
def throughViews (mode : FprOverlay) : State :=
  let s := underParams { Params.default with fprOverlay := mode }
  (after (.movevi 1 0x1FC000) ((s.setF 6 0x40000000).setD 4 0x1122334455667788)).setF 5 0x40400000

/-- 10_state.md R37: with separate files a write reaches its own view alone. -/
theorem test_separate_files :
    let s := throughViews .separate
    s.getV 1 = ⟨0x3F800000, 0x3F800000, 0x3F800000, 0x3F800000⟩ ∧ s.getF 5 = 0x40400000 ∧ s.getF 6 = 0x40000000 ∧
      s.getD 2 = 0 ∧ s.getF 8 = 0 ∧ s.getV 2 = Vec4.zero := by decide

/-- 10_state.md R37: in one file v1 is f4 to f7, d2 and d3; d4 is f8 and f9, in either order of its halves. -/
theorem test_shared_file :
    let s := throughViews (.shared true)
    let t := throughViews (.shared false)
    s.getV 1 = ⟨0x3F800000, 0x40400000, 0x3F800000, 0x3F800000⟩ ∧ s.getD 2 = 0x404000003F800000 ∧
      s.getF 6 = 0x3F800000 ∧ t.getD 2 = 0x3F80000040400000 ∧ s.getF 8 = 0x55667788 ∧ t.getF 8 = 0x11223344 ∧
      s.getV 2 = ⟨0x55667788, 0x11223344, 0, 0⟩ := by decide

theorem test_shared_file_agrees :
    (throughViews (.shared true)).viewsAgree = true ∧ (throughViews (.shared false)).viewsAgree = true ∧
      (underParams { Params.default with fprOverlay := .shared true }).viewsAgree = true := by decide +kernel

theorem test_cvt_f2d : (after (.cvtF2d 1 2) (State.reset.setF 2 0x3FC00000)).getD 1 = 0x3FF8000000000000 := by decide

theorem test_itof0_lanes :
    (after (.itof0 2 1 .xyzw) (State.reset.setX 1 0xFFFF000300020001)).getV 2 =
      ⟨0x3F800000, 0x40000000, 0x40400000, 0xBF800000⟩ := by decide

theorem test_ftoi8_lane :
    (after (.ftoi8 1 2 .x) ((State.reset.setX 1 0xAAAABBBBCCCCDDDD).setV 2 ⟨0xBF800000, 0, 0, 0⟩)).getX 1 =
      0xAAAABBBBCCCCFF00 := by decide

theorem test_cvt_f2i_negative :
    (after (.cvtF2i 1 2 .l) (State.reset.setF 2 0xBF800000)).getX 1 = 0x00000000FFFFFFFF := by decide

theorem test_fdiv : (after (.fdiv 1 2 3) ((State.reset.setF 2 0x40400000).setF 3 0x40000000)).getF 1 = 0x3FC00000 := by
  decide

theorem test_dsqrt : (after (.dsqrt 1 2 2) (State.reset.setD 2 0x4010000000000000)).getD 1 = 0x4000000000000000 := by
  decide +kernel

theorem test_movefi : (after (.movefi 2 0x180400) State.reset).getF 2 = 0xC0200000 := by decide

theorem test_movedi : (after (.movedi 1 0x0FFC00) State.reset).getD 1 = 0x3FF0000000000000 := by decide

theorem test_movevi :
    (after (.movevi 1 0x1FC000) State.reset).getV 1 = ⟨0x3F800000, 0x3F800000, 0x3F800000, 0x3F800000⟩ := by decide

/-! ### Witnesses: encoding and decoding -/

theorem witness_EncodeThenDecode :
    (Instr.outi 255 0xFFFF .w).wf = true ∧ (Instr.outi 255 0xFFFF .w).legalIn 1 = true ∧
      (Instr.ldmv 31 56 0x7FFF true).wf = true ∧ (Instr.ldmv 31 63 0 true).legalIn 0 = true ∧
      (Instr.lddma 59 63 0 0xFFF true).wf = true := by decide

theorem witness_DecodedWordIsTheEncoding :
    decode 0 0xF88282C3#32 = .ok (.fmulva 2 5 .xyzw) ∧ decode 3 0x0C10B002#32 = .ok (.add 3 1 2 .q) := by decide

theorem witness_SlotRules :
    (Instr.fdiv 127 0 1).wf = true ∧ Instr.ret.wf = true ∧ State.reset.xchg = false ∧
      answerOf (program State.reset [0x62, 0x62]).fetch = some [0x62, 0x62] := by decide

theorem witness_IllegalEncodingsAreRefused :
    field 0x11#32 1 0 = 1 ∧ field 0x70#32 5 0 = 0x30 ∧ field 0x70#32 7 6 = 1 ∧ field 0xA30#32 11 8 = 10 ∧
      field 0xF30#32 11 8 = 15 ∧ field 0x12#32 6 4 = 1 ∧ field 0x72#32 6 4 = 7 ∧ field 0xD02#32 11 8 = 13 ∧
      field 0xF02#32 6 0 = 2 ∧ field 0xD6#32 7 4 = 13 ∧ field 0xFA#32 3 0 = 10 ∧ field 0x24#32 7 4 = 2 ∧
      field 0xE4#32 7 4 = 14 ∧ field 0x1C#32 7 4 = 1 ∧ field 0x1C#32 3 3 = 1 := by decide

/-! ### Witnesses: fetch, step and bundle -/

theorem witness_FetchIsLittleEndian :
    answerOf (program State.reset [0x0FC080D1, 0xE2]).fetch = some [0x0FC080D1, 0xE2] ∧
      answerOf (program State.reset.flipXchg [1, 2, 3, 4]).fetch = some [1, 2, 3, 4] := by decide

theorem witness_StepRunsTheDecodedInstruction :
    let s := State.reset.withFetchWord 32 0x28B00404
    s.status = .running ∧ decode 1 0x28B00404#32 = .ok (.lddmar 10 11 4) ∧ s.pc.toNat + 8 ≤ s.params.isramSize ∧
      s.readRaces .isram s.pc.toNat 8 = false ∧
      (∀ n, n < 2 → ∀ b, b < 4 →
        s.byteAt .isram (s.pc.toNat + 4 * n + b) = some (byteOf (if n = 1 then 0x28B00404#32 else 0x62#32) b)) ∧
      s.dmaq = [] := by decide

theorem witness_StepRunsTheDecodedInstruction_moving :
    let s := moving.flipXchg.withFetchWord 32 0xE2
    s.status = .running ∧ decode 0 0xE2#32 = .ok (.nop true) ∧ s.pc.toNat + 16 ≤ s.params.isramSize ∧
      s.readRaces .isram s.pc.toNat 16 = false ∧
      (∀ n, n < 4 → ∀ b, b < 4 →
        s.byteAt .isram (s.pc.toNat + 4 * n + b) = some (byteOf (if n = 0 then 0xE2#32 else 0x62#32) b)) ∧
      s.dmaq ≠ [] ∧ s.engineTurn = false ∧ Instr.nop true ≠ .wait ∧ runs (exec (.nop true) s.turnTaken) = true := by
  decide

/-- LATENCY of two bundles for ADD, whose result in r3 the next bundle must not read. -/
def settling : State :=
  { underParams { Params.default with latency := [(.add, 2)] } with unsettled := [⟨.x 3, 2⟩] }

theorem witness_StepRunsTheDecodedInstruction_early :
    refusalOf (step (settling.withFetchWord 32 0x0C30C002)) = some .latencyHazard ∧
      decode 0 0x0C30C002#32 = .ok (.add 3 3 3 .b) ∧ Instr.readsEarly (.add 3 3 3 .b) settling ∧
      ¬Instr.readsEarly (.add 3 1 2 .b) settling := by
  unfold Instr.readsEarly
  decide

/-- 41_bru.md R181, R182, 45_vfpu.md R372: what is not read may be late. After FCMP with a latency BL reads U alone,
after FADD.VV of lanes x and y STCF of the float at lane z reads neither, and FTOI0 of lane x keeps the other lanes of
a late register without reading it. -/
theorem test_latency_of_what_is_read :
    let s := { State.reset with unsettled := [⟨.flagZ, 1⟩, ⟨.flagS, 1⟩, ⟨.v 1 0, 1⟩, ⟨.v 1 1, 1⟩, ⟨.x 3, 1⟩] }
    Instr.readsUnsettled (.bl 2) s = false ∧ Instr.readsUnsettled (.bge 2) s = false ∧
      Instr.readsUnsettled (.ble 2) s = true ∧ Instr.readsUnsettled (.bgs 2) s = true ∧
      Instr.readsUnsettled (.stcf 6 60 0 false) s = false ∧ Instr.readsUnsettled (.stcf 5 60 0 false) s = true ∧
      Instr.readsUnsettled (.stcd 2 60 0 false) s = true ∧ Instr.readsUnsettled (.stcd 3 60 0 false) s = false ∧
      Instr.readsUnsettled (.ftoi0 3 2 .x) s = false ∧ Instr.readsUnsettled (.itof0 2 3 .x) s = true := by decide

/-- 44_agu.md R351 (1): with 8 late bytes at DSRAM 28 an STDMAR of no blocks from 32 reads none of them, one of one
block does. -/
theorem test_latency_of_an_empty_transfer :
    let s := { underParams { Params.default with latency := [(.stm, 2)], misaligned := .allow } with
      unsettled := [⟨.mem .dsram 28 8, 2⟩] }
    let t := s.setX 10 1
    answerOf (runBundle t [.nop false, .stdmar 10 11 0]) =
        some { t with pc := 8, unsettled := [⟨.mem .dsram 28 8, 1⟩] } ∧
      refusalOf (runBundle t [.nop false, .stdmar 10 11 1]) = some .latencyHazard := by decide +kernel

theorem test_latency_window :
    let s := program (underParams { Params.default with latency := [(.add, 2)] })
      [0x0C10B002, 0x62, 0x62, 0x62, 0x62, 0x62]
    let t := stepState s
    t.unsettled = [⟨.x 3, 2⟩] ∧ (stepState t).unsettled = [⟨.x 3, 1⟩] ∧ (stepState (stepState t)).unsettled = [] := by
  decide +kernel

theorem witness_BundleReadsTheStateBeforeIt :
    let four : List Instr := [.add 3 1 2 .q, .stm 4 60 0 .q true, .movei 5 7, .subq 6 1 .w]
    let held : List Instr := [.ldm 3 2 64 .b false, .wait]
    let s := put (State.reset.setLanded [transfer]) .dsram 64 [9]
    four.length = (if State.reset.flipXchg.xchg then 4 else 2) ∧
      (∀ (k : Slot) i, four[k.val]? = some i → i.legalIn k = true) ∧ Instr.wait ∉ four ∧
      runs (runBundle State.reset.flipXchg four) = true ∧ held.length = (if s.xchg then 4 else 2) ∧
      (∀ (k : Slot) i, held[k.val]? = some i → i.legalIn k = true) ∧ s.dmaq = [] ∧ runs (runBundle s held) = true := by
  intro four held s
  refine ⟨rfl, ?_, by decide, by decide, rfl, ?_, rfl, by decide⟩
  · intro k i hi
    match k with
    | 0 | 1 | 2 | 3 => cases hi; decide
  · intro k i hi
    match k with
    | 0 | 1 => cases hi; decide
    | 2 | 3 => cases hi

theorem witness_OnlyTheFootprintIsWritten :
    runs (exec (.stm 4 60 0 .q true) State.reset) = true ∧
      (Instr.writes (.stm 4 60 0 .q true) State.reset).all (fun m =>
        !m.overlaps .unstated (.mem .dsram 8 4) && !m.overlaps .unstated (.x 59)) = true := by decide

theorem witness_OnlyTheFootprintIsWritten_views :
    runs (exec (.faddVv 1 2 3 .xy) State.reset) = true ∧
      (Instr.writes (.faddVv 1 2 3 .xy) State.reset).all (fun m =>
        !m.overlaps .unstated (.v 1 2) && !m.overlaps .unstated (.f 8) && !m.overlaps .separate (.f 4)
          && !m.overlaps (.shared true) (.f 6) && !m.overlaps (.shared true) (.d 3)) = true := by decide

theorem witness_ConflictingBundlesAreRefused :
    refusalOf (runBundle State.reset [.movei 1 0, .movei 1 1]) = some .bundleConflict ∧
      refusalOf (runBundle State.reset [.movei 1 0, .stm 1 2 0 .b false]) = some .bundleConflict ∧
      refusalOf (runBundle State.reset [.add 2 1 1 .q, .movei 1 1]) = some .bundleConflict ∧
      refusalOf (runBundle State.reset [.jmp 0, .nop true]) = some .endWithTransfer ∧
      runs (runBundle State.reset [.beq 0, .nop true]) = true := by decide

theorem witness_ConflictingBundlesAreRefused_wide :
    let s := State.reset.flipXchg
    refusalOf (runBundle s [.nop false, .wait, .movei 1 0, .addq 1 1 .q]) = some .bundleConflict ∧
      refusalOf (runBundle s [.jmp 0, .wait, .nop false, .nop true]) = some .endWithTransfer ∧
      refusalOf (runBundle settling.flipXchg [.nop false, .wait, .nop false, .addq 3 1 .q]) = some .latencyHazard ∧
      runs (runBundle s [.jmp 0, .wait, .movei 1 0, .addq 2 1 .q]) = true ∧ s.dmaq = [] := by decide

theorem witness_LowestFaultStopsTheBundle :
    refusalOf (exec .ret State.reset) = some .returnWithoutCall ∧
      faultOf (runBundle State.reset [.ret, .ldm 1 2 0 .b false]) = some (.uninitialisedRead .dsram 0) ∧
      refusalOf (exec (.ldm 1 2 64 .b false) moving) = some .dmaRace ∧ runs (exec (.nop false) moving) = true ∧
      refusalOf (runBundle State.reset [.ret, .nop false]) = some .returnWithoutCall := by
  decide

theorem witness_LowestFaultStopsTheBundle_wait :
    State.reset.dmaq = [] ∧ Instr.wait ∈ [Instr.ldm 1 2 0 .b false, .wait] ∧
      faultOf (runBundle State.reset [.ldm 1 2 0 .b false, .wait]) = some (.uninitialisedRead .dsram 0) := by
  decide

theorem witness_FetchAndDecodeStopsAreRecorded :
    faultOf (step (State.reset.setPc 0xFF8)) = some (.uninitialisedRead .isram 0xFF8) ∧
      faultOf (step (State.reset.setPc 0x1000)) = some (.fetchFault 0x1000) ∧
      faultOf (step (State.reset.flipXchg.setPc 0xFF8)) = some (.fetchFault 0xFF8) ∧
      refusalOf (step (State.reset.setLanded [⟨.ram, 0, .isram, 0, 32, []⟩])) = some .fetchUnderDma ∧
      refusalOf (step (State.reset.setDmaq [⟨.ram, 0, .isram, 0, 32, []⟩])) = some .fetchUnderDma ∧
      (State.reset.setDmaq [⟨.ram, 0, .isram, 0, 32, []⟩]).status = .running ∧
      (State.reset.setDmaq [⟨.ram, 0, .isram, 0, 32, []⟩]).engineTurn = false ∧
      faultOf (step (program State.reset [0x62, 0x22])) = some (.illegalOpcode 0 1 0x22) := by decide

/-- A DMAIR transfer over the bundle at 0, in flight, of which no byte is copied. -/
def overwriting (ws : List Word) : State :=
  program ((put State.reset .ram 0 (List.replicate 32 7)).setDmaq [⟨.ram, 0, .isram, 0, 32, []⟩]) ws

/-- 60_exceptions.md R446: under a DMAIR an Illegal word, the hold of a WAIT and a fault of an opcode come before the
refusal of the fetch, which comes before the other refusals. -/
theorem witness_FetchAndDecodeStopsAreRecorded_race :
    faultOf (step (overwriting [0x62, 0x22])) = some (.illegalOpcode 0 1 0x22) ∧
      answerOf (overwriting [0x62, 0xF4]).fetchBundle = some [.nop false, .wait] ∧
      answerOf (step (overwriting [0x62, 0xF4])) = answerOf (overwriting [0x62, 0xF4]).engineMove ∧
      runs (step (overwriting [0x62, 0xF4])) = true ∧
      faultOf (step (overwriting [0x62, 0x0FC080D1])) = some (.uninitialisedRead .dsram 128) ∧
      refusalOf (step (overwriting [0xF0, 0x62])) = some .fetchUnderDma ∧
      refusalOf (step (overwriting [0x62, 0x62])) = some .fetchUnderDma := by decide +kernel

theorem witness_StopsLeaveTheStateAndLast :
    State.reset.status = .running ∧ faultOf (step State.reset) = some (.uninitialisedRead .isram 0) ∧
      refusalOf (step (program State.reset [0xF0, 0x62])) = some .returnWithoutCall ∧
      State.reset.endRun.status ≠ .running ∧ State.reset.endRun.dmaq = [] ∧ moving.endRun.status ≠ .running ∧
      runs (step moving.endRun) = true := by decide

/-! ### Witnesses: invariants -/

theorem witness_StepKeepsTheInvariant :
    moving.invariant = true ∧ runs (step moving.endRun) = true ∧ moving.endRun.invariant = true ∧
      (program State.reset [0x000080B0, 0x62]).invariant = true ∧
      runs (step (program State.reset [0x000080B0, 0x62])) = true := by decide

/-- BRANCH_DELAY of one bundle: JMP 64, a bundle of NOPs, and at 64 another. -/
def delayed : State :=
  put (program (underParams { Params.default with branchDelay := 1 }) [0x000081B0, 0x62, 0x62, 0x62]) .isram 64
    ([0x62, 0x62].flatMap bytesOfWord)

theorem witness_StepKeepsTheInvariant_delay :
    let t := stepState delayed
    delayed.invariant = true ∧ t.redirects = [⟨1, 64⟩] ∧ t.pc = 8 ∧ t.invariant = true ∧ runs (step t) = true ∧
      (stepState t).redirects = [] ∧ (stepState t).pc = 64 ∧ settling.invariant = true := by decide +kernel

theorem witness_ResetState :
    let p := { Params.default with resetPc := 0xFF8, callDepth := 7 }
    p.valid = true ∧ (State.resetWith p).pc = 0xFF8 ∧ { Params.default with callDepth := 0 }.valid = false ∧
      { Params.default with resetPc := 4 }.valid = false ∧ { Params.default with resetPc := 0x1000 }.valid = false := by
  decide

theorem witness_StepKeepsTransfersRaceFree :
    (moving.setDmaq [transfer, ⟨.ram, 0, .dsram, 96, 32, []⟩]).raceFree = true ∧
      (moving.setDmaq [transfer, ⟨.dsram, 64, .ram, 32, 32, []⟩]).raceFree = false ∧
      runs (step moving.endRun) = true := by decide

/-! ### Witnesses: BRU and ALU -/

theorem witness_JumpAndCallTargets :
    State.reset.rs.length < State.reset.params.callDepth ∧ runs (exec (.call 0x3FFF) State.reset) = true := by decide

theorem witness_JumpAndCallTargets_delay :
    let later : List (List Instr) := [[.movei 1 1, .nop false], [.cmp 1 2 .q, .wait]]
    let s := underParams { Params.default with branchDelay := 2 }
    later.length = s.params.branchDelay ∧ s.redirects = [] ∧
      (∀ is ∈ later, ∀ j ∈ is, Instr.isTransfer j = false) ∧
      runs (runBundles ([.callr 8, .nop false] :: later) s) = true ∧
      (answerOf (runBundles ([.callr 8, .nop false] :: later) s)).map (fun t => t.pc) = some 64 := by decide

theorem witness_ReturnsAndCallDepth :
    (State.reset.setRs [8]).rs = 8 :: [] ∧ State.reset.rs = [] ∧
      (State.reset.setRs [8]).params.callDepth ≤ (State.reset.setRs [8]).rs.length := by decide

theorem witness_ReturnUndoesCall :
    runs (exec (.call 8) State.reset) = true ∧ (after (.call 8) State.reset).rs = [8] ∧
      runs (exec (.callr 8) State.reset) = true := by decide

theorem witness_AluDivision :
    let s := (State.reset.setX 1 0x80).setX 2 0xFF
    s.natOf 2 .b ≠ 0 ∧ signedOf .b (s.natOf 1 .b) = -2 ^ (Size.bits .b - 1) ∧ signedOf .b (s.natOf 2 .b) = -1 ∧
      signedOf .w (s.natOf 2 .w) ≠ -1 ∧ natOfInt .q (s.immOf .divsi 0x3FF#10) ≠ 0 ∧ signedOf .q 0x3FF ≠ -1 ∧
      natOfInt .l (s.immOf .divuq 0xFFFF#16) ≠ 0 := by decide

/-- 30_encoding.md R104: the immediates of the instructions that IMM_SIGNED names. -/
theorem test_signed_immediates :
    let s := underParams { Params.default with immSigned := [.addi, .movei, .ldm, .lddma] }
    (after (.addi 1 2 0x3FF .q) (s.setX 2 5)).getX 1 = 4 ∧ (after (.subi 1 2 0x3FF .q) (s.setX 2 0x400)).getX 1 = 1 ∧
      (after (.movei 1 0x3FFFFF) s).getX 1 = 0xFFFFFFFFFFFFFFFF ∧
      (after (.ldm 1 2 0xFFF .b false) (put (s.setX 2 17) .dsram 16 [9])).getX 1 = 9 ∧
      faultOf (exec (.ldm 1 2 0xFFF .b false) s) = some (.addressFault .dsram (-1) 1) ∧
      (after (.lddma 58 60 0xFFF 0 false) (s.setX 58 3)).dmaq = [⟨.ram, 64, .dsram, 0, 32, []⟩] := by decide

theorem witness_AluShifts :
    let s := State.reset.setX 2 63
    s.natOf 2 .q < Size.bits .q ∧ natOfInt .b (s.immOf .asli 7#10) < Size.bits .b ∧
      natOfInt .l (s.immOf .lsrq 31#16) < Size.bits .l := by decide

/-! ### Witnesses: LSU -/

theorem witness_IntegerLoads :
    loadExample.accessOk .dsram 0x180 (2 ^ Size.q.toField) ∧ loadExample.readRaces .dsram 0x180 8 = false ∧
      loadExample.holdsBytes .dsram 0x180 8 (byteOf 0x1122334455667788#64) ∧ (3 : Reg) ≠ 60 ∧
      ((loadExample.getX 60).toNat : Int) + loadExample.immOf .ldm 128#12 = 0x180 := by
  unfold State.accessOk State.holdsBytes
  decide

theorem witness_IntegerLoads_cache :
    let s := (put State.reset .cache 0xFF8 (List.replicate 8 9)).setX 62 0xFF8
    s.accessOk .cache 0xFF8 8 ∧ s.readRaces .cache 0xFF8 8 = false ∧ s.holdsBytes .cache 0xFF8 8 (fun _ => 9) := by
  unfold State.accessOk State.holdsBytes
  decide

theorem witness_IntegerLoads_extended :
    let s := (put State.reset .dsram 0xFFF [5]).setX 62 0xFFF
    s.lsxBase false = 62 ∧ s.accessOk .dsram ((s.getX 62).toNat + s.immOf .ldmx 0#16) 1 ∧
      s.readRaces .dsram 0xFFF 1 = false ∧ s.holdsBytes .dsram 0xFFF 1 (fun _ => 5) := by
  unfold State.accessOk State.holdsBytes
  decide

theorem witness_IntegerStores :
    State.reset.accessOk .dsram 0xFF8 8 ∧ moving.writeRaces .dsram 96 8 = false ∧
      moving.writeRaces .dsram 56 8 = false ∧ State.reset.writeRaces .cache 0xFFF 1 = false ∧
      State.reset.accessOk .cache 0xFFF 1 := by
  unfold State.accessOk
  decide

theorem witness_IosramAccesses :
    State.reset.accessOk .iosram 248 8 ∧ State.reset.accessOk .iosram 255 1 ∧ State.reset.accessOk .iosram 254 2 ∧
      Size.w.isShort = true ∧ { State.reset with ioInputs := [7] }.ioInputs = 7 :: [] := by
  unfold State.accessOk
  decide

theorem witness_FloatingLoads :
    let s := put State.reset .dsram 0xFF0 (List.replicate 16 3)
    s.accessOk .dsram 0xFF0 16 ∧ s.accessOk .dsram 0xFFC 4 ∧ s.accessOk .dsram 0xFF8 8 ∧
      s.readRaces .dsram 0xFF0 16 = false ∧ s.holdsBytes .dsram 0xFF0 16 (fun _ => 3) := by
  unfold State.accessOk State.holdsBytes
  decide

theorem witness_FloatingLoads_cache :
    let s := put State.reset .cache 0 (List.replicate 16 3)
    s.accessOk .cache 0 16 ∧ s.accessOk .cache 12 4 ∧ s.accessOk .cache 8 8 ∧ s.readRaces .cache 0 16 = false ∧
      s.holdsBytes .cache 0 16 (fun _ => 3) := by
  unfold State.accessOk State.holdsBytes
  decide

theorem witness_FloatingStores :
    State.reset.accessOk .dsram 0xFF0 16 ∧ State.reset.accessOk .cache 0xFF0 16 ∧
      State.reset.accessOk .dsram 0xFFC 4 ∧ State.reset.accessOk .cache 0xFF8 8 ∧
      State.reset.writeRaces .dsram 0xFF0 16 = false ∧ State.reset.writeRaces .cache 0xFF0 16 = false := by
  unfold State.accessOk
  decide

theorem witness_AccessChecksInOrder :
    Instr.access (.ldm 1 2 0xFFF .b false) State.reset = some (.dsram, 0xFFF, 1, false) ∧
      faultOf (exec (.ldm 1 2 0xFFD .l false) State.reset) = some (.addressFault .dsram 0xFFD 4) ∧
      faultOf (exec (.ldm 1 2 0xFFA .l false) State.reset) = some (.misalignedAccess .dsram 0xFFA 4) ∧
      refusalOf (exec (.stm 1 2 31 .b false) (moving.setDmaq [⟨.dsram, 0, .ram, 0, 32, []⟩])) = some .dmaRace ∧
      faultOf (exec (.ldm 1 2 0xFFC .l false) (put State.reset .dsram 0xFFC [1])) =
        some (.uninitialisedRead .dsram 0xFFD) := by decide

theorem witness_AccessChecksInOrder_wrap :
    faultOf (exec (.stc 1 2 1 .b false) (State.reset.setX 2 0xFFFFFFFFFFFFFFFF)) =
      some (.addressFault .cache 0x10000000000000000 1) := by decide

theorem witness_MixedWidthAccessSeesBytes :
    runs (State.reset.store .dsram 8 8 0x1122334455667788) = true ∧ 8 + 8 ≤ 2 ^ 64 ∧ 6 + 2 ≤ 8 ∧ (8 + 6) % 2 = 0 := by
  decide

/-! ### Witnesses: AGU and the transfer engine -/

theorem witness_TransferStarts :
    Instr.transfer (.lddmar 10 11 0) State.reset = some ⟨.ram, 0, .dsram, 0, 0⟩ ∧
      Instr.transfer (.stdma 59 63 0x7FF 0x7F false) State.reset = some ⟨.dsram, 0xFE0, .ram, 0xFFE0, 32⟩ ∧
      Request.sourceIn ⟨.dsram, 0xFE0, .ram, 0xFFE0, 32⟩ State.reset ∧
      Request.destinationIn ⟨.dsram, 0xFE0, .ram, 0xFFE0, 32⟩ State.reset ∧
      moving.newRaces ⟨.dsram, 0xFE0, .ram, 0xFFE0, 32, []⟩ = false := by
  unfold Request.sourceIn Request.destinationIn
  decide

theorem witness_TransferStarts_each :
    Instr.transfer (.lddma 58 60 2 1 true) State.reset = some ⟨.ram, 64, .dsram, 32, 64⟩ ∧
      Instr.transfer (.lddmar 10 11 128) State.reset = some ⟨.ram, 0, .dsram, 0, 4096⟩ ∧
      Instr.transfer (.stdmar 10 11 128) State.reset = some ⟨.dsram, 0, .ram, 0, 4096⟩ ∧
      Instr.transfer (.dmair 10 11 128) State.reset = some ⟨.ram, 0, .isram, 0, 4096⟩ ∧
      State.reset.newRaces ⟨.ram, 0, .isram, 0, 4096, []⟩ = false := by decide

theorem witness_TransferChecksInOrder :
    faultOf (exec (.lddmar 10 11 129) (State.reset.setX 11 0x780)) = some (.addressFault .ram 0xF000 4128) ∧
      faultOf (exec (.lddmar 10 11 129) State.reset) = some (.addressFault .dsram 0 4128) ∧
      refusalOf (exec (.lddmar 10 11 3) moving) = some .dmaRace ∧
      refusalOf (exec (.stdmar 10 11 3) (State.reset.setLanded [transfer])) = some .dmaRace ∧
      runs (exec (.lddmar 10 11 2) moving) = true := by decide

theorem witness_TransferChecksInOrder_signed :
    let s := underParams { Params.default with immSigned := [.lddma, .lddmar] }
    faultOf (exec (.lddma 58 60 0xFFF 0 false) s) = some (.addressFault .ram (-32) 32) ∧
      Instr.transfer (.lddmar 10 11 0xFFF) s = some ⟨.ram, 0, .dsram, 0, 0⟩ := by decide

theorem witness_TransferAlignment :
    runs (exec (.stdma 58 60 1 2 true) State.reset) = true ∧
      (after (.stdma 58 60 1 2 true) State.reset).dmaq = [] ++ [⟨.dsram, 64, .ram, 32, 64, []⟩] := by decide

theorem witness_WaitHoldsOrCompletes : State.reset.dmaq = [] ∧ moving.dmaq ≠ [] := by decide

theorem witness_EngineCopiesOneByte :
    moving.invariant = true ∧ moving.dmaq ≠ [] ∧ moving.sourcesHeld ∧ runs moving.engineMove = true := by
  unfold State.sourcesHeld
  decide

theorem witness_StoppedMachineCompletesTransfers :
    moving.endRun.invariant = true ∧ moving.endRun.raceFree = true ∧ moving.endRun.sourcesHeld ∧
      moving.endRun.status ≠ .running ∧ moving.endRun.remaining = 32 := by
  unfold State.sourcesHeld
  decide

theorem witness_HeldBundleRunsAfterTheTransfers :
    let s := program moving [0x62, 0xF4]
    s.invariant = true ∧ s.raceFree = true ∧ s.sourcesHeld ∧ s.status = .running ∧
      answerOf s.fetchBundle = some [.nop false, .wait] ∧ hasWait [.nop false, .wait] = true ∧ s.fetchRaces = false ∧
      s.remaining = 32 := by
  unfold State.sourcesHeld
  decide

/-! ### Witnesses: rules over the whole machine -/

theorem witness_OnlyComparesWriteFlags :
    runs (exec (.add 1 2 3 .q) State.reset) = true ∧ Instr.isCompare (.add 1 2 3 .q) = false ∧
      runs (exec (.fcmp 1 2) State.reset) = true ∧ Instr.isFloatCompare (.fcmp 1 2) = true := by decide

theorem witness_OnlyBranchesReadFlags :
    Instr.bles 2 ∈ conditionalBranches 2 ∧ State.reset.branchTarget 2 ≠ State.reset.seqPc ∧
      State.reset.params.branchDelay = 0 ∧ delayed.params.branchDelay ≠ 0 ∧ runs (exec (.bles 2) State.reset) = true ∧
      runs (exec (.cmp 1 2 .q) State.reset) = true ∧ Instr.isCompare (.jmp 2) = false ∧
      runs (exec (.jmp 2) State.reset) = true := by decide

theorem witness_OnlyBranchesReadFlags_others (label : Label) :
    Instr.cmp 1 2 .q ∉ conditionalBranches label ∧ Instr.jmp 2 ∉ conditionalBranches label := by
  simp [conditionalBranches]

theorem witness_XchgBit :
    answerOf (program State.reset.flipXchg [0x22, 0x62, 0x62, 0x62]).fetch = some [0x22, 0x62, 0x62, 0x62] ∧
      runs (exec .xchg State.reset) = true ∧ runs (exec (.call 0) State.reset) = true := by decide

theorem witness_AccumulatorAccess :
    runs (exec (.movevi 1 0) State.reset) = true ∧ Instr.writesAcc (.movevi 1 0) = false ∧
      Instr.readsAcc (.fmulva 1 2 .xy) = false ∧ runs (exec (.fmulva 1 2 .xy) State.reset) = true := by decide

/-- A DMAIR transfer in flight of which no byte is copied. -/
def loadingCode : State :=
  ((put State.reset .ram 0 (List.replicate 32 7)).setDmaq [⟨.ram, 0, .isram, 64, 32, []⟩]).endRun

theorem witness_IsramIsWrittenByDmairOnly :
    runs (exec (.dmair 10 11 1) State.reset) = true ∧ (after (.dmair 10 11 1) State.reset).dmaq.length = 1 ∧
      runs (step loadingCode) = true ∧ loadingCode.byteAt .isram 64 = none ∧
      (stepState loadingCode).byteAt .isram 64 = some 7 := by decide

/-! ### Witnesses: the numerics record -/

theorem witness_PackingAnUnpackedPattern :
    (0x80000001 : Nat) < 2 ^ (1 + binary32.expBits + binary32.manBits) ∧ binary32.unpack 0x80000001 ≠ .nan ∧
      binary64.unpack 0x7FEFFFFFFFFFFFFF ≠ .nan ∧ binary32.unpack 0xFF800000 = .inf true := by decide

theorem number_one : binary32.number 0x3F800000 = some 1 := by
  have h : binary32.unpack 0x3F800000 = .fin false 0x800000 (-23) := by decide
  rw [FpFormat.number, h]
  norm_num

theorem number_minus_half : binary32.number 0xBF000000 = some (-1 / 2) := by
  have h : binary32.unpack 0xBF000000 = .fin true 0x800000 (-24) := by decide
  rw [FpFormat.number, h]
  norm_num

theorem witness_CompareIsTheOrderOfNumbers :
    FpFormat.ofMachine binary32 ∧ binary32.isPattern 0xFF800000 ∧
      binary32.cmp Params.default 0xFF800000 0xFF800000 = .eq ∧
      binary32.cmp Params.default 0xFF800000 0x7F800000 = .lt ∧
      binary32.cmp Params.default 0x7F800000 0x7F7FFFFF = .gt ∧
      binary32.cmp Params.default 0x80000000 0 = .eq ∧ binary32.cmp Params.default 0x7FC00000 0 = .unordered ∧
      binary32.cmp Params.default 1 0 = .gt ∧
      binary32.cmp { Params.default with subnormals := .flush } 1 0 = .eq :=
  ⟨.inl rfl, by unfold FpFormat.isPattern; decide, by decide, by decide, by decide, by decide, by decide, by decide,
    by decide⟩

theorem witness_SumsAndProductsRoundToNearest :
    FpFormat.ofMachine binary32 ∧ FpFormat.ofMachine binary64 ∧ Params.default.rounding = .nearestEven ∧
      binary32.isPattern 0x3F800000 ∧ binary32.isPattern 0xBF000000 ∧ Params.default.fused = false ∧
      { Params.default with fused := true }.fused = true ∧ binary32.number 0x3F800000 = some 1 ∧
      binary32.number 0xBF000000 = some (-1 / 2) :=
  ⟨.inl rfl, .inr rfl, rfl, by unfold FpFormat.isPattern; decide, by unfold FpFormat.isPattern; decide, rfl, rfl,
    number_one, number_minus_half⟩

/-- 45_vfpu.md R371: what IEEE 754 gives at the ends of the range of binary32. -/
theorem test_sums_and_products_at_the_ends :
    let p := Params.default
    binary32.add p 0x7F7FFFFF 0x73000000 = some 0x7F800000 ∧ binary32.add p 0x7F7FFFFF 0x72FFFFFF = some 0x7F7FFFFF ∧
      binary32.add p 0x7F800000 0xFF800000 = none ∧ binary32.sub p 0x7F800000 0xFF800000 = some 0x7F800000 ∧
      binary32.add p 0x80000000 0x80000000 = some 0x80000000 ∧ binary32.sub p 0x3F800000 0x3F800000 = some 0 ∧
      binary32.mul p 0x7F800000 0 = none ∧ binary32.mul p 0xBF800000 0 = some 0x80000000 := by decide

/-- 45_vfpu.md R373: (1 + 2^-12) * (1 + 2^-12) - (1 + 2^-11) is 0 with two roundings and 2^-24 with one. -/
theorem test_fused_multiply_add :
    binary32.muladd Params.default 0x3F800800 0x3F800800 0xBF801000 = some 0 ∧
      binary32.muladd { Params.default with fused := true } 0x3F800800 0x3F800800 0xBF801000 = some 0x33800000 := by
  decide

/-- 45_vfpu.md R393: a tie goes to the even float, a double too large is an infinity, one too small a subnormal float.
-/
theorem test_convert_to_binary32 :
    binary64.convert binary32 Params.default 0x3FF0000010000000 = some 0x3F800000 ∧
      binary64.convert binary32 Params.default 0x3FF0000030000000 = some 0x3F800002 ∧
      binary64.convert binary32 Params.default 0x7FE0000000000000 = some 0x7F800000 ∧
      binary64.convert binary32 Params.default 0xB690000000000001 = some 0x80000001 ∧
      binary64.convert binary32 { Params.default with subnormals := .flush } 0xB6A0000000000000 = some 0x80000000 := by
  decide

/-- The other settings of FP (log 20): flushed operands, the one NaN, and the orders of a dot product. -/
theorem test_other_settings_of_fp :
    let p := Params.default
    let one := 0x3F800000
    let pairs := [(one, 0x5F800000), (one, one), (one, 0xDF800000), (one, one)]
    binary32.add { p with subnormals := .flush } 1 0x00800000 = some 0x00800000 ∧
      nan32 .canonical 3 = 0x7FC00000 ∧ binary32.dot p pairs = some 0x3F800000 ∧
      binary32.dot { p with dotOrder := .descending } pairs = some 0 ∧
      binary32.dot { p with dotOrder := .pairwise } pairs = some 0 := by decide

theorem witness_QuotientsAndRootsRoundToNearest :
    Params.default.rounding = .nearestEven ∧ binary32.number 0x3F800000 = some 1 ∧
      binary32.number 0xBF000000 = some (-1 / 2) ∧ binary32.isPattern 0xBF000000 :=
  ⟨rfl, number_one, number_minus_half, by unfold FpFormat.isPattern; decide⟩

/-- 45_vfpu.md R420, R421: quotients by zero and by infinity, roots of -0, of a negative number and of the infinities.
-/
theorem test_quotients_and_roots_at_the_ends :
    let p := Params.default
    binary32.div p 0x3F800000 0x80000000 = some 0xFF800000 ∧ binary32.div p 0 0 = none ∧
      binary32.div p 0x7F800000 0x7F800000 = none ∧ binary32.div p 0xBF800000 0x7F800000 = some 0x80000000 ∧
      binary32.sqrt p 0x80000000 = some 0x80000000 ∧ binary32.sqrt p 0xBF800000 = none ∧
      binary32.sqrt p 0x7F800000 = some 0x7F800000 ∧ binary32.sqrt p 0xFF800000 = none := by decide

theorem witness_FloatDoubleFloatRoundTrip :
    binary32.unpack ((State.reset.setF 2 0x80000001).getF 2).toNat ≠ .nan ∧
      runs (exec (.cvtF2d 1 2) (State.reset.setF 2 0x80000001)) = true := by decide

theorem witness_FixedPointRoundTrip :
    runs (exec (.itof15 2 1 .xyzw) (State.reset.setX 1 0x8000)) = true ∧
      (after (.ftoi15 3 2 .xyzw) (after (.itof15 2 1 .xyzw) (State.reset.setX 1 0x8000))).getX 3 = 0x8000 := by decide

theorem ext_one : binary32.ext Params.default 0x3F800000 = .num false 1 := by
  have h : binary32.unpack (binary32.kept Params.default 0x3F800000) = .fin false 0x800000 (-23) := by decide
  rw [FpFormat.ext, h]
  norm_num

theorem ext_minus_infinity : binary32.ext Params.default 0xFF800000 = .inf true := by
  have h : binary32.unpack (binary32.kept Params.default 0xFF800000) = .inf true := by decide
  rw [FpFormat.ext, h]

theorem witness_CompareIsTheOrderOfNumbers_places :
    (binary32.ext Params.default 0xFF800000).place = some ⊥ ∧
      (binary32.ext Params.default 0x3F800000).place = some (((1 : ℚ) : WithTop ℚ) : WithBot (WithTop ℚ)) := by
  rw [ext_minus_infinity, ext_one]
  exact ⟨rfl, rfl⟩

/-- In range for the fixed-point and integer conversions: 1 in binary32, rounded by every direction. -/
theorem witness_FixedPointConversions :
    binary32.ext Params.default 0x3F800000 = .num false 1 ∧ roundRat .nearestEven (1 * 2 ^ 8) = 256 ∧
      roundRat .towardZero (1 * 2 ^ 8) = 256 := by
  refine ⟨ext_one, ?_, ?_⟩ <;> norm_num [roundRat]

theorem witness_IntegerConversions :
    binary32.ext Params.default 0x3F800000 = .num false 1 ∧ -(2 ^ (Size.bits .b - 1) : Int) ≤ roundRat .towardZero 1 ∧
      roundRat .towardZero 1 < 2 ^ (Size.bits .b - 1) ∧ Params.default.rounding = .nearestEven := by
  refine ⟨ext_one, ?_, ?_, rfl⟩ <;> norm_num [roundRat, Size.bits, Size.bytes, Size.toField]

end Sys2Proof.Tests
end

section
/-! SUPPORT. The kinds of instruction (those that work on data and go on, compares, branches, jumps, XCHG, WAIT), and
what each kind neither reads nor writes. -/

namespace Sys2Proof.Machine

open Sys2Proof

/-! ### The kinds of instruction -/

/-- The instructions that work on registers, memory, ports and transfers and go on to the bundle that follows: all but
those of the BRU, XCHG and WAIT. -/
def Instr.isData : Instr → Bool
  | .xchg | .wait => false
  | i => i.issueClass != .bru

/-- The five unconditional control transfers (41_bru.md R206 to R210). -/
def Instr.isJump : Instr → Bool
  | .call _ | .jmp _ | .callr _ | .jmpr _ | .ret => true
  | _ => false

/-- What issues to the BRU is a compare or a control transfer. -/
theorem Instr.bru_cases {i : Instr} (h : i.issueClass = .bru) :
    Instr.isCompare i = true ∨ Instr.isTransfer i = true := by
  cases i with
  | cmp | cmpi | fcmp | fcmpi | dcmp | dcmpi => exact .inl rfl
  | bne | beq | bl | ble | bg | bge | bls | bles | bgs | bges | call | jmp | callr | jmpr | ret => exact .inr rfl
  | _ => cases h

/-- A floating compare is a compare. -/
theorem Instr.isCompare_of_isFloatCompare {i : Instr} (h : Instr.isFloatCompare i = true) :
    Instr.isCompare i = true := by
  cases i with
  | fcmp | fcmpi | dcmp | dcmpi => rfl
  | _ => cases h

/-- The control transfers are the ten branches and the five jumps. -/
theorem Instr.isTransfer_cases {i : Instr} (h : Instr.isTransfer i = true) :
    (∃ label, i ∈ conditionalBranches label) ∨ Instr.isJump i = true := by
  cases i with
  | bne l | beq l | bl l | ble l | bg l | bge l | bls l | bles l | bgs l | bges l =>
    exact .inl ⟨l, by simp [conditionalBranches]⟩
  | call | jmp | callr | jmpr | ret => exact .inr rfl
  | _ => cases h

/-- What is neither XCHG nor WAIT and does not issue to the BRU is a data instruction. -/
theorem Instr.isData_eq {i : Instr} (hx : i ≠ .xchg) (hw : i ≠ .wait) : Instr.isData i = (i.issueClass != .bru) := by
  cases i with
  | xchg | wait => contradiction
  | _ => rfl

/-- Every instruction is of one of five kinds. -/
theorem Instr.kind_cases (i : Instr) :
    Instr.isData i = true ∨ Instr.isCompare i = true ∨ Instr.isTransfer i = true ∨ i = .xchg ∨ i = .wait := by
  by_cases hx : i = .xchg
  · simp [hx]
  by_cases hw : i = .wait
  · simp [hw]
  by_cases hc : i.issueClass = .bru
  · exact .inr ((Instr.bru_cases hc).imp_right .inl)
  · simp [Instr.isData_eq hx hw, hc]

/-! ### What data instructions do not touch -/

/-- The data of `s` (general and floating registers, DSRAM, CACHE, RAM, transfers, ports, free values, status) under
the control of `o`: pc, flags, XCHG bit, ISRAM, return addresses, the windows of BRANCH_DELAY and LATENCY, script;
and the accumulator `a`. -/
def State.under (s o : State) (a : Vec4) : State :=
  { s with
    pc := o.pc, flagZ := o.flagZ, flagS := o.flagS, flagU := o.flagU, xchg := o.xchg, isram := o.isram, rs := o.rs
    redirects := o.redirects, unsettled := o.unsettled, script := o.script, acc := a }

@[simp] theorem State.under_self (s : State) : s.under s s.acc = s := rfl

/-- An instruction's meaning that goes on to the bundle that follows and neither reads nor writes what `State.under`
replaces. -/
def Independent (m : State → Result State) : Prop :=
  ∀ s o a, m (s.under o a) = andThen (m s) fun t => .next (t.under o a).advance

/-- The same for a meaning that may read and write the accumulator. -/
def IndependentButAcc (m : State → Result State) : Prop :=
  ∀ s o, m (s.under o s.acc) = andThen (m s) fun t => .next (t.under o t.acc).advance

/-- A load from another space than ISRAM finds the same under other control. -/
theorem State.load_under (s o : State) (a : Vec4) {sp : Space} (h : sp ≠ .isram) (addr : Int) (n : Nat) :
    (s.under o a).load sp addr n = s.load sp addr n := by
  cases sp <;> first | rfl | contradiction

/-- A store to another space than ISRAM does the same under other control. -/
theorem State.store_under (s o : State) (a : Vec4) {sp : Space} (h : sp ≠ .isram) (addr : Int) (n v : Nat) :
    (s.under o a).store sp addr n v = andThen (s.store sp addr n v) fun t => .next (t.under o a) := by
  have hc : (s.under o a).checkAccess sp addr n = s.checkAccess sp addr n := by cases sp <;> rfl
  have hw (k : Nat) : (s.under o a).writeRaces sp k n = s.writeRaces sp k n := rfl
  unfold State.store
  rw [hc]
  cases s.checkAccess sp addr n with
  | fault | refused => rfl
  | next k =>
    simp only [andThen_next_left, hw]
    split
    · rfl
    · cases sp <;> first | rfl | contradiction

theorem State.postInc_under (s o : State) (a : Vec4) (base : Reg) (inc : Bool) (n : Nat) :
    (s.under o a).postInc base inc n = (s.postInc base inc n).under o a := by
  cases inc <;> rfl

theorem State.loadInt_under (s o : State) (a : Vec4) {sp : Space} (h : sp ≠ .isram) (data base : Reg) (addr : Int)
    (size : Size) (inc : Bool) :
    (s.under o a).loadInt sp data base addr size inc =
      andThen (s.loadInt sp data base addr size inc) fun t => .next (t.under o a).advance := by
  unfold State.loadInt
  rw [State.load_under s o a h, State.postInc_under]
  cases s.load sp addr (Size.bytes size) with
  | fault | refused => rfl
  | next v =>
    simp only [andThen_next_left]
    split <;> rfl

theorem State.storeInt_under (s o : State) (a : Vec4) {sp : Space} (h : sp ≠ .isram) (data base : Reg) (addr : Int)
    (size : Size) (inc : Bool) :
    (s.under o a).storeInt sp data base addr size inc =
      andThen (s.storeInt sp data base addr size inc) fun t => .next (t.under o a).advance := by
  have hx : (s.under o a).getX data = s.getX data := rfl
  unfold State.storeInt
  rw [hx, State.store_under s o a h]
  cases s.store sp addr (Size.bytes size) (s.getX data).toNat with
  | fault | refused => rfl
  | next t => simp only [andThen_next_left, State.postInc_under]; rfl

theorem State.storeWide_under (s o : State) (a : Vec4) {sp : Space} (h : sp ≠ .isram) (base : Reg) (addr : Int)
    (n v : Nat) (inc : Bool) :
    (s.under o a).storeWide sp base addr n v inc =
      andThen (s.storeWide sp base addr n v inc) fun t => .next (t.under o a).advance := by
  unfold State.storeWide
  rw [State.store_under s o a h]
  cases s.store sp addr n v with
  | fault | refused => rfl
  | next t => simp only [andThen_next_left, State.postInc_under]; rfl

theorem State.loadVector_under (s o : State) (a : Vec4) {sp : Space} (h : sp ≠ .isram) (data : VReg) (base : Reg)
    (addr : Int) (inc : Bool) :
    (s.under o a).loadVector sp data base addr inc =
      andThen (s.loadVector sp data base addr inc) fun t => .next (t.under o a).advance := by
  unfold State.loadVector
  rw [State.load_under s o a h, State.postInc_under]
  cases s.load sp addr 16 <;> rfl

theorem State.loadFloat_under (s o : State) (a : Vec4) {sp : Space} (h : sp ≠ .isram) (data : FReg) (base : Reg)
    (addr : Int) (inc : Bool) :
    (s.under o a).loadFloat sp data base addr inc =
      andThen (s.loadFloat sp data base addr inc) fun t => .next (t.under o a).advance := by
  unfold State.loadFloat
  rw [State.load_under s o a h, State.postInc_under]
  cases s.load sp addr 4 <;> rfl

theorem State.loadDouble_under (s o : State) (a : Vec4) {sp : Space} (h : sp ≠ .isram) (data : DReg) (base : Reg)
    (addr : Int) (inc : Bool) :
    (s.under o a).loadDouble sp data base addr inc =
      andThen (s.loadDouble sp data base addr inc) fun t => .next (t.under o a).advance := by
  unfold State.loadDouble
  rw [State.load_under s o a h, State.postInc_under]
  cases s.load sp addr 8 <;> rfl

theorem execInp_under (s o : State) (a : Vec4) (data : Reg) (addr : BitVec 8) (size : Size) :
    execInp data addr size (s.under o a) =
      andThen (execInp data addr size s) fun t => .next (t.under o a).advance := by
  have hc : (s.under o a).checkAccess .iosram ((s.under o a).immValue .inp addr) (Size.bytes size) =
    s.checkAccess .iosram (s.immValue .inp addr) (Size.bytes size) := rfl
  unfold execInp
  rw [hc]
  cases s.checkAccess .iosram (s.immValue .inp addr) (Size.bytes size) <;> rfl

theorem State.outputIo_under (s o : State) (a : Vec4) (addr : Int) (n v : Nat) :
    (s.under o a).outputIo addr n v = andThen (s.outputIo addr n v) fun t => .next (t.under o a).advance := by
  have hc : (s.under o a).checkAccess .iosram addr n = s.checkAccess .iosram addr n := rfl
  unfold State.outputIo
  rw [hc]
  cases s.checkAccess .iosram addr n <;> rfl

theorem State.startAndAdvance_under (s o : State) (a : Vec4) (src dst : Space) (srcAddr dstAddr : Int) (len : Nat) :
    (s.under o a).startAndAdvance src srcAddr dst dstAddr len =
      andThen (s.startAndAdvance src srcAddr dst dstAddr len) fun t => .next (t.under o a).advance := by
  have hr (sp : Space) (b : Int) : (s.under o a).rangeInSpace sp b len = s.rangeInSpace sp b len := by cases sp <;> rfl
  have hw : (s.under o a).writeRaces dst dstAddr.toNat len = s.writeRaces dst dstAddr.toNat len := rfl
  have hrr : (s.under o a).readRaces src srcAddr.toNat len = s.readRaces src srcAddr.toNat len := rfl
  unfold State.startAndAdvance State.startTransfer
  rw [hr, hr, hw, hrr]
  split_ifs <;> rfl

/-- The instructions whose meaning reads or writes the accumulator (45_vfpu.md R384 to R386). -/
def Instr.usesAcc (i : Instr) : Bool := Instr.writesAcc i || Instr.readsAcc i

/-- A data instruction that does not use the accumulator neither reads nor writes control or the accumulator. -/
theorem exec_independent {i : Instr} (h : Instr.isData i = true) (ha : Instr.usesAcc i = false) :
    Independent (exec i) := by
  have hd : Space.dsram ≠ .isram := by decide
  have hc : Space.cache ≠ .isram := by decide
  intro s o a
  cases i with
  | cmp | cmpi | fcmp | fcmpi | dcmp | dcmpi | bne | beq | bl | ble | bg | bge | bls | bles | bgs | bges | call | jmp
  | callr | jmpr | ret | xchg | wait => cases h
  | fmulva | fmuladdva | fmuladdvao => cases ha
  | ldm | ldmx => exact State.loadInt_under s o a hd ..
  | ldc => exact State.loadInt_under s o a hc ..
  | stm | stmx => exact State.storeInt_under s o a hd ..
  | stc => exact State.storeInt_under s o a hc ..
  | ldmv => exact State.loadVector_under s o a hd ..
  | ldcv => exact State.loadVector_under s o a hc ..
  | ldmf => exact State.loadFloat_under s o a hd ..
  | ldcf => exact State.loadFloat_under s o a hc ..
  | ldmd => exact State.loadDouble_under s o a hd ..
  | ldcd => exact State.loadDouble_under s o a hc ..
  | stmv | stmf | stmd => exact State.storeWide_under s o a hd ..
  | stcv | stcf | stcd => exact State.storeWide_under s o a hc ..
  | inp => exact execInp_under s o a ..
  | out | outi => exact State.outputIo_under s o a ..
  | lddma | stdma | lddmar | stdmar | dmair => exact State.startAndAdvance_under s o a ..
  | nop fin => cases fin <;> rfl
  | _ => rfl

/-- What does not touch the accumulator keeps it. -/
theorem Independent.butAcc {m : State → Result State} (h : Independent m) : IndependentButAcc m := by
  intro s o
  rw [h s o s.acc]
  have hs := h s s s.acc
  rw [State.under_self] at hs
  cases hm : m s with
  | fault | refused => rfl
  | next t =>
    rw [hm, andThen_next_left] at hs
    injection hs with ht
    have hacc : t.acc = s.acc := by rw [ht]; rfl
    rw [andThen_next_left, andThen_next_left, hacc]

/-- A data instruction neither reads nor writes control. -/
theorem exec_independentButAcc {i : Instr} (h : Instr.isData i = true) : IndependentButAcc (exec i) := by
  cases hu : Instr.usesAcc i
  · exact (exec_independent h hu).butAcc
  · cases i with
    | fmulva | fmuladdva | fmuladdvao => intro s o; rfl
    | _ => cases hu

/-- A data instruction that completes: it leaves control, and under other control it does the same. -/
theorem exec_data_next {i : Instr} {s t : State} (h : Instr.isData i = true) (ht : exec i s = .next t) :
    ∃ v, t = (State.under v s v.acc).advance ∧
      ∀ o, exec i (s.under o s.acc) = .next (State.under v o v.acc).advance := by
  have hi := exec_independentButAcc h s
  simp only [ht, andThen_next_left] at hi
  have hs := (hi s).symm.trans ht
  exact ⟨t, by injection hs with hs; exact hs.symm, hi⟩

/-- The same with the accumulator, for an instruction that does not use it. -/
theorem exec_data_next_of_noAcc {i : Instr} {s t : State} (h : Instr.isData i = true) (ha : Instr.usesAcc i = false)
    (ht : exec i s = .next t) :
    ∃ v, t = (State.under v s s.acc).advance ∧ ∀ o a, exec i (s.under o a) = .next (State.under v o a).advance := by
  have hi := exec_independent h ha s
  simp only [ht, andThen_next_left] at hi
  have hs := (hi s s.acc).symm.trans ht
  exact ⟨t, by injection hs with hs; exact hs.symm, hi⟩

/-! ### Compares -/

/-- The state under the control of `o` with the flags that a compare wrote: Z and S, and U where `u` says so. -/
def State.compared (t o : State) (a : Vec4) (float : Bool) : State :=
  (t.under o a).setFlags t.flagZ t.flagS (if float then o.flagU else t.flagU)

theorem State.fcmp_under (s o : State) (a : Vec4) (order : FpOrder) :
    (s.under o a).fcmp order = (s.fcmp order).compared o a true := by
  cases order <;> rfl

/-- A compare reads no flag, no other control and no accumulator, and changes of them only pc and the flags. -/
theorem exec_compare {i : Instr} (h : Instr.isCompare i = true) (s o : State) (a : Vec4) :
    exec i (s.under o a) = andThen (exec i s) fun t => .next (t.compared o a (Instr.isFloatCompare i)).advance := by
  cases i with
  | cmp | cmpi => rfl
  | fcmp | fcmpi | dcmp | dcmpi => exact congrArg (fun t => Host.Outcome.next t.advance) (State.fcmp_under s o a _)
  | _ => cases h

/-- A compare that completes: it leaves control but pc and the flags, and under other control it does the same. -/
theorem exec_compare_next {i : Instr} {s t : State} (h : Instr.isCompare i = true) (ht : exec i s = .next t) :
    ∃ v, t = (State.compared v s s.acc (Instr.isFloatCompare i)).advance ∧
      ∀ o a, exec i (s.under o a) = .next (State.compared v o a (Instr.isFloatCompare i)).advance := by
  have hi := exec_compare h s
  simp only [ht, andThen_next_left] at hi
  have hs := (hi s s.acc).symm.trans ht
  exact ⟨t, by injection hs with hs; exact hs.symm, hi⟩

/-- What a compare that completes leaves unchanged: all but pc, the flags and the free values. -/
theorem exec_compare_frame {i : Instr} {s t : State} (h : Instr.isCompare i = true) (ht : exec i s = .next t) :
    t = { s.advance with flagZ := t.flagZ, flagS := t.flagS, flagU := t.flagU, draws := t.draws } := by
  have hfcmp (order : FpOrder) : (s.fcmp order).advance = { s.advance with
      flagZ := (s.fcmp order).flagZ, flagS := (s.fcmp order).flagS, flagU := (s.fcmp order).flagU
      draws := (s.fcmp order).draws } := by
    cases order <;> rfl
  cases i with
  | cmp | cmpi => cases ht; rfl
  | fcmp | fcmpi | dcmp | dcmpi => cases ht; exact hfcmp _
  | _ => cases h

/-! ### Branches and jumps -/

/-- The state with other flags, another accumulator and another ISRAM. -/
def State.aside (s : State) (z sg u : Bool) (a : Vec4) (m : Memory) : State :=
  { s with flagZ := z, flagS := sg, flagU := u, acc := a, isram := m }

theorem State.jump_aside (s : State) (z sg u : Bool) (a : Vec4) (m : Memory) (target : Addr) :
    (s.aside z sg u a m).jump target = (s.jump target).aside z sg u a m := by
  by_cases h : s.params.branchDelay = 0
  · have h' : (s.aside z sg u a m).params.branchDelay = 0 := h
    rw [State.jump_of_noDelay h, State.jump_of_noDelay h']; rfl
  · have h' : (s.aside z sg u a m).params.branchDelay ≠ 0 := h
    rw [State.jump_of_delay h, State.jump_of_delay h']; rfl

theorem State.branch_aside (s : State) (z sg u : Bool) (a : Vec4) (m : Memory) (cond : Bool) (label : Label) :
    (s.aside z sg u a m).branch cond label = (s.branch cond label).aside z sg u a m := by
  cases cond
  · rfl
  · exact State.jump_aside ..

/-- What a branch changes: pc and the targets to come. -/
theorem State.branch_eq (s : State) (cond : Bool) (label : Label) :
    s.branch cond label = { s with pc := (s.branch cond label).pc, redirects := (s.branch cond label).redirects } := by
  cases cond
  · rfl
  · exact State.jump_eq ..

/-- A conditional branch is a branch on a condition on the flags that some flags meet and others do not
(41_bru.md R182). -/
theorem exec_conditional {i : Instr} {label : Label} (h : i ∈ conditionalBranches label) :
    ∃ cond : Bool → Bool → Bool → Bool, (∃ z sg u, cond z sg u = true) ∧ (∃ z sg u, cond z sg u = false) ∧
      ∀ s, exec i s = .next (s.branch (cond s.flagZ s.flagS s.flagU) label) := by
  simp only [conditionalBranches, List.mem_cons, List.not_mem_nil, or_false] at h
  rcases h with rfl | rfl | rfl | rfl | rfl | rfl | rfl | rfl | rfl | rfl
  · exact ⟨fun z _ _ => !z, by decide, by decide, fun _ => rfl⟩
  · exact ⟨fun z _ _ => z, by decide, by decide, fun _ => rfl⟩
  · exact ⟨fun _ _ u => u, by decide, by decide, fun _ => rfl⟩
  · exact ⟨fun z _ u => u || z, by decide, by decide, fun _ => rfl⟩
  · exact ⟨fun z _ u => !u && !z, by decide, by decide, fun _ => rfl⟩
  · exact ⟨fun _ _ u => !u, by decide, by decide, fun _ => rfl⟩
  · exact ⟨fun _ sg _ => sg, by decide, by decide, fun _ => rfl⟩
  · exact ⟨fun z sg _ => sg || z, by decide, by decide, fun _ => rfl⟩
  · exact ⟨fun z sg _ => !sg && !z, by decide, by decide, fun _ => rfl⟩
  · exact ⟨fun _ sg _ => !sg, by decide, by decide, fun _ => rfl⟩

/-- A jump, call or return reads neither the flags nor the accumulator nor ISRAM. -/
theorem exec_jump_aside {i : Instr} (h : Instr.isJump i = true) (s : State) (z sg u : Bool) (a : Vec4) (m : Memory) :
    exec i (s.aside z sg u a m) = andThen (exec i s) fun t => .next (t.aside z sg u a m) := by
  have hcall (target : Addr) :
      (s.aside z sg u a m).callTo target = andThen (s.callTo target) fun t => .next (t.aside z sg u a m) := by
    unfold State.callTo
    by_cases hr : s.rs.length < s.params.callDepth
    · have hr' : (s.aside z sg u a m).rs.length < (s.aside z sg u a m).params.callDepth := hr
      rw [if_pos hr, if_pos hr']
      exact congrArg _ (State.jump_aside (s.setRs (s.nextPc :: s.rs)) ..)
    · have hr' : ¬(s.aside z sg u a m).rs.length < (s.aside z sg u a m).params.callDepth := hr
      rw [if_neg hr, if_neg hr']
      rfl
  cases i with
  | jmp | jmpr => exact congrArg _ (State.jump_aside ..)
  | call | callr => exact hcall _
  | ret =>
    change (s.aside z sg u a m).returnFrom = andThen s.returnFrom _
    have hrs : (s.aside z sg u a m).rs = s.rs := rfl
    unfold State.returnFrom
    rw [hrs]
    cases s.rs with
    | nil => rfl
    | cons b rest => exact congrArg _ (State.jump_aside (s.setRs rest) ..)
  | _ => cases h

/-- A control transfer reads neither the accumulator nor ISRAM. -/
theorem exec_transfer_aside {i : Instr} (h : Instr.isTransfer i = true) (s : State) (a : Vec4) (m : Memory) :
    exec i (s.aside s.flagZ s.flagS s.flagU a m) =
      andThen (exec i s) fun t => .next (t.aside s.flagZ s.flagS s.flagU a m) := by
  obtain ⟨label, hb⟩ | hj := Instr.isTransfer_cases h
  · obtain ⟨cond, -, -, hc⟩ := exec_conditional hb
    rw [hc, hc]
    exact congrArg _ (State.branch_aside ..)
  · exact exec_jump_aside hj ..

/-- The state after a control transfer: as before but for pc, the targets to come and the return addresses. -/
def State.Transferred (s t : State) : Prop := t = { s with pc := t.pc, redirects := t.redirects, rs := t.rs }

theorem State.transferred_jump (s : State) (l : List Addr) (target : Addr) :
    s.Transferred ((s.setRs l).jump target) := by
  unfold State.Transferred State.jump
  split <;> rfl

/-- A control transfer that completes changes pc, the targets to come and the return addresses alone, and completes
from every state with as many return addresses under the same parameters. -/
theorem exec_transfer_next {i : Instr} {s t s' : State} (h : Instr.isTransfer i = true) (ht : exec i s = .next t)
    (hrs : s'.rs = s.rs) (hp : s'.params = s.params) : ∃ t', exec i s' = .next t' ∧ s'.Transferred t' := by
  have hcall (a a' : Addr) (hc : s.callTo a = .next t) : ∃ t', s'.callTo a' = .next t' ∧ s'.Transferred t' := by
    have := (State.callTo_next hc).1
    exact ⟨_, if_pos (by rw [hrs, hp]; exact this), State.transferred_jump ..⟩
  obtain ⟨label, hb⟩ | hj := Instr.isTransfer_cases h
  · obtain ⟨cond, -, -, hc⟩ := exec_conditional hb
    refine ⟨_, hc s', ?_⟩
    cases cond s'.flagZ s'.flagS s'.flagU
    · rfl
    · exact State.transferred_jump s' s'.rs _
  · cases i with
    | jmp | jmpr => exact ⟨_, rfl, State.transferred_jump s' s'.rs _⟩
    | call | callr => exact hcall _ _ ht
    | ret =>
      obtain ⟨a, rest, hr, -⟩ := State.returnFrom_next ht
      refine ⟨(s'.setRs rest).jump a, ?_, State.transferred_jump ..⟩
      change s'.returnFrom = _
      simp [State.returnFrom, hrs, hr]
    | _ => cases hj

/-- What a control transfer that completes leaves unchanged. -/
theorem exec_transfer_frame {i : Instr} {s t : State} (h : Instr.isTransfer i = true) (ht : exec i s = .next t) :
    s.Transferred t := by
  obtain ⟨t', ht', hs⟩ := exec_transfer_next h ht rfl rfl
  rw [ht] at ht'
  cases ht'
  exact hs

/-! ### WAIT -/

/-- WAIT with no transfer in flight orders the earlier ones and goes on. -/
theorem exec_wait_of_idle {s : State} (h : s.dmaq = []) : exec .wait s = .next (s.setLanded []).advance := by
  change execWait s = _
  simp [execWait, h]

/-- WAIT with a transfer in flight changes nothing. -/
theorem exec_wait_of_pending {s : State} (h : s.dmaq ≠ []) : exec .wait s = .next s := by
  change execWait s = _
  unfold execWait
  split
  · contradiction
  · rfl

end Sys2Proof.Machine
end

section
/-! The rules over the whole machine: who writes and who reads the flags, the XCHG bit and the accumulator. -/

namespace Sys2Proof.Machine

open Sys2Proof

/-- What no compare does: change a flag (10_state.md R29). -/
theorem exec_keeps_flags {i : Instr} {s t : State} (hc : Instr.isCompare i = false) (ht : exec i s = .next t) :
    t.flagZ = s.flagZ ∧ t.flagS = s.flagS ∧ t.flagU = s.flagU := by
  obtain h | h | h | rfl | rfl := Instr.kind_cases i
  · obtain ⟨v, rfl, -⟩ := exec_data_next h ht
    exact ⟨rfl, rfl, rfl⟩
  · rw [hc] at h; cases h
  · rw [exec_transfer_frame h ht]
    exact ⟨rfl, rfl, rfl⟩
  · cases ht
    exact ⟨rfl, rfl, rfl⟩
  · obtain ⟨-, rfl⟩ | ⟨-, rfl⟩ := execWait_next ht <;> exact ⟨rfl, rfl, rfl⟩

theorem State.nextPc_eq (s : State) : s.nextPc = s.seqPc := by
  unfold State.nextPc State.seqPc State.width
  split <;> rfl

/-- A relative target in bit vectors and in numbers (41_bru.md R183). -/
theorem State.relTarget_eq (s : State) (label : Label) : s.relTarget label = s.branchTarget label := by
  unfold State.relTarget State.branchTarget State.relBase
  rw [State.nextPc_eq]
  cases s.params.relBase <;>
    simp only [BitVec.ofInt_add, BitVec.ofInt_mul, BitVec.ofInt_natCast, BitVec.ofNat_toNat, BitVec.setWidth_eq] <;> rfl

/-- A taken branch goes elsewhere than one that is not taken: its next pc differs, or the targets to come do. -/
theorem State.branch_differs (s : State) (label : Label)
    (h : s.params.branchDelay = 0 → s.branchTarget label ≠ s.seqPc) :
    (s.branch true label).pc ≠ (s.branch false label).pc ∨
      (s.branch true label).redirects ≠ (s.branch false label).redirects := by
  have htrue : s.branch true label = s.jump (s.relTarget label) := rfl
  have hfalse : s.branch false label = s.advance := rfl
  rw [htrue, hfalse]
  by_cases hd : s.params.branchDelay = 0
  · left
    rw [State.jump_of_noDelay hd, State.relTarget_eq]
    simpa [State.nextPc_eq] using h hd
  · right
    rw [State.jump_of_delay hd]
    simp

/-- A branch with other flags goes where it goes with these. -/
theorem State.branch_setFlags (s : State) (z sg u cond : Bool) (label : Label) :
    (s.setFlags z sg u).branch cond label = (s.branch cond label).setFlags z sg u :=
  (State.branch_aside s z sg u s.acc s.isram cond label).trans (by rw [State.branch_eq]; rfl)

/-- With other flags an instruction completes too, with the same but for the flags and, of a conditional branch, pc and
the targets to come (10_state.md R30). -/
theorem exec_setFlags {i : Instr} {s t : State} (z sg u : Bool) (ht : exec i s = .next t) :
    ∃ t', exec i (s.setFlags z sg u) = .next t' ∧
      t' = { t with flagZ := t'.flagZ, flagS := t'.flagS, flagU := t'.flagU, pc := t'.pc, redirects := t'.redirects } ∧
      ((∀ label, i ∉ conditionalBranches label) → t'.pc = t.pc ∧ t'.redirects = t.redirects) := by
  obtain h | h | h | rfl | rfl := Instr.kind_cases i
  · obtain ⟨v, rfl, hv⟩ := exec_data_next h ht
    exact ⟨_, hv (s.setFlags z sg u), rfl, fun _ => ⟨rfl, rfl⟩⟩
  · obtain ⟨v, rfl, hv⟩ := exec_compare_next h ht
    exact ⟨_, hv (s.setFlags z sg u) s.acc, rfl, fun _ => ⟨rfl, rfl⟩⟩
  · obtain ⟨label, hb⟩ | hj := Instr.isTransfer_cases h
    · obtain ⟨cond, -, -, hc⟩ := exec_conditional hb
      cases (hc s).symm.trans ht
      refine ⟨_, hc _, ?_, fun hno => absurd hb (hno label)⟩
      rw [State.branch_setFlags, State.branch_eq, State.branch_eq s (cond s.flagZ s.flagS s.flagU)]
      rfl
    · have hframe := exec_transfer_frame h ht
      have ht' : exec i (s.setFlags z sg u) = .next (t.aside z sg u s.acc s.isram) :=
        (exec_jump_aside hj s z sg u s.acc s.isram).trans (by rw [ht, andThen_next_left])
      refine ⟨_, ht', ?_, fun _ => ⟨rfl, rfl⟩⟩
      rw [hframe]
      rfl
  · cases ht
    exact ⟨_, rfl, rfl, fun _ => ⟨rfl, rfl⟩⟩
  · obtain ⟨hd, rfl⟩ | ⟨hd, rfl⟩ := execWait_next ht
    · exact ⟨_, exec_wait_of_idle (s := s.setFlags z sg u) hd, rfl, fun _ => ⟨rfl, rfl⟩⟩
    · exact ⟨_, exec_wait_of_pending (s := t.setFlags z sg u) hd, rfl, fun _ => ⟨rfl, rfl⟩⟩

/-! ### The XCHG bit -/

/-- Only XCHG changes the XCHG bit (10_state.md R31). -/
theorem exec_keeps_xchg {i : Instr} {s t : State} (hx : i ≠ .xchg) (ht : exec i s = .next t) : t.xchg = s.xchg := by
  obtain h | h | h | rfl | rfl := Instr.kind_cases i
  · obtain ⟨v, rfl, -⟩ := exec_data_next h ht
    rfl
  · obtain ⟨v, rfl, -⟩ := exec_compare_next h ht
    rfl
  · rw [exec_transfer_frame h ht]
  · contradiction
  · obtain ⟨-, rfl⟩ | ⟨-, rfl⟩ := execWait_next ht <;> rfl

/-- With the other XCHG bit an instruction completes too, with the same registers and accumulator (10_state.md R31). -/
theorem exec_flipXchg {i : Instr} {s t : State} (ht : exec i s = .next t) :
    ∃ u, exec i s.flipXchg = .next u ∧ u.x = t.x ∧ u.f = t.f ∧ u.d = t.d ∧ u.v = t.v ∧ u.acc = t.acc := by
  obtain h | h | h | rfl | rfl := Instr.kind_cases i
  · obtain ⟨v, rfl, hv⟩ := exec_data_next h ht
    exact ⟨_, hv s.flipXchg, rfl, rfl, rfl, rfl, rfl⟩
  · obtain ⟨v, rfl, hv⟩ := exec_compare_next h ht
    exact ⟨_, hv s.flipXchg s.acc, rfl, rfl, rfl, rfl, rfl⟩
  · obtain ⟨u, hu, hs⟩ := exec_transfer_next (s' := s.flipXchg) h ht rfl rfl
    refine ⟨u, hu, ?_⟩
    rw [hs, exec_transfer_frame h ht]
    exact ⟨rfl, rfl, rfl, rfl, rfl⟩
  · cases ht
    exact ⟨_, rfl, rfl, rfl, rfl, rfl, rfl⟩
  · obtain ⟨hd, rfl⟩ | ⟨hd, rfl⟩ := execWait_next ht
    · exact ⟨_, exec_wait_of_idle (s := s.flipXchg) hd, rfl, rfl, rfl, rfl, rfl⟩
    · exact ⟨_, exec_wait_of_pending (s := t.flipXchg) hd, rfl, rfl, rfl, rfl, rfl⟩

/-! ### The accumulator -/

/-- Only FMULVA and FMULADDVA change the accumulator (10_state.md R36). -/
theorem exec_keeps_acc {i : Instr} {s t : State} (hi : Instr.writesAcc i = false) (ht : exec i s = .next t) :
    t.acc = s.acc := by
  obtain h | h | h | rfl | rfl := Instr.kind_cases i
  · cases hu : Instr.usesAcc i
    · obtain ⟨v, rfl, -⟩ := exec_data_next_of_noAcc h hu ht
      rfl
    · cases i with
      | fmuladdvao => cases ht; rfl
      | fmulva | fmuladdva => cases hi
      | _ => cases hu
  · obtain ⟨v, rfl, -⟩ := exec_compare_next h ht
    rfl
  · rw [exec_transfer_frame h ht]
  · cases ht; rfl
  · obtain ⟨-, rfl⟩ | ⟨-, rfl⟩ := execWait_next ht <;> rfl

/-- With another accumulator an instruction that does not read it completes too, with the same but for the accumulator
(10_state.md R36). -/
theorem exec_setAcc {i : Instr} {s t : State} (a : Vec4) (hi : Instr.readsAcc i = false) (ht : exec i s = .next t) :
    ∃ u, exec i (s.setAcc a) = .next u ∧ u = { t with acc := u.acc } := by
  obtain h | h | h | rfl | rfl := Instr.kind_cases i
  · cases hu : Instr.usesAcc i
    · obtain ⟨v, rfl, hv⟩ := exec_data_next_of_noAcc h hu ht
      exact ⟨_, hv s a, rfl⟩
    · cases i with
      | fmulva => cases ht; exact ⟨_, rfl, rfl⟩
      | fmuladdva | fmuladdvao => cases hi
      | _ => cases hu
  · obtain ⟨v, rfl, hv⟩ := exec_compare_next h ht
    exact ⟨_, hv s a, rfl⟩
  · have ht' : exec i (s.setAcc a) = .next (t.aside s.flagZ s.flagS s.flagU a s.isram) :=
      (exec_transfer_aside h s a s.isram).trans (by rw [ht, andThen_next_left])
    refine ⟨_, ht', ?_⟩
    rw [exec_transfer_frame h ht]
    rfl
  · cases ht; exact ⟨_, rfl, rfl⟩
  · obtain ⟨hd, rfl⟩ | ⟨hd, rfl⟩ := execWait_next ht
    · exact ⟨_, exec_wait_of_idle (s := s.setAcc a) hd, rfl⟩
    · exact ⟨_, exec_wait_of_pending (s := t.setAcc a) hd, rfl⟩

/-! ### ISRAM -/

/-- No instruction reads or changes ISRAM: with another one it does the same and leaves that (10_state.md R39). -/
theorem exec_setIsram {i : Instr} {s t : State} (m : Memory) (ht : exec i s = .next t) :
    t.isram = s.isram ∧ exec i { s with isram := m } = .next { t with isram := m } := by
  obtain h | h | h | rfl | rfl := Instr.kind_cases i
  · obtain ⟨v, rfl, hv⟩ := exec_data_next h ht
    exact ⟨rfl, hv { s with isram := m }⟩
  · obtain ⟨v, rfl, hv⟩ := exec_compare_next h ht
    exact ⟨rfl, hv { s with isram := m } s.acc⟩
  · have ht' : exec i { s with isram := m } = .next (t.aside s.flagZ s.flagS s.flagU s.acc m) :=
      (exec_transfer_aside h s s.acc m).trans (by rw [ht, andThen_next_left])
    rw [ht', exec_transfer_frame h ht]
    exact ⟨rfl, rfl⟩
  · cases ht
    exact ⟨rfl, rfl⟩
  · obtain ⟨hd, rfl⟩ | ⟨hd, rfl⟩ := execWait_next ht
    · exact ⟨rfl, exec_wait_of_idle (s := { s with isram := m }) hd⟩
    · exact ⟨rfl, exec_wait_of_pending (s := { t with isram := m }) hd⟩

end Sys2Proof.Machine

open Sys2Proof Sys2Proof.Machine

/-- Settles O50: by the kinds of instruction, of which only the compares write flags, and the floating ones not U. -/
theorem onlyComparesWriteFlags : Obligations.OnlyComparesWriteFlags := by
  intro i s t ht
  refine ⟨fun hc => exec_keeps_flags hc ht, fun hf => ?_⟩
  have hc : Instr.isCompare i = true := Instr.isCompare_of_isFloatCompare hf
  obtain ⟨v, rfl, -⟩ := exec_compare_next hc ht
  simp [State.compared, hf]

/-- Settles O51. -/
theorem onlyBranchesReadFlags : Obligations.OnlyBranchesReadFlags := by
  refine ⟨fun label i s hi h => ?_, fun i s t z g u ht => ⟨exec_setFlags z g u ht, fun hc => exec_keeps_flags hc ht⟩⟩
  obtain ⟨cond, ⟨z, g, u, h1⟩, ⟨z', g', u', h0⟩, hcond⟩ := exec_conditional hi
  refine ⟨z, g, u, z', g', u', _, _, hcond _, hcond _, ?_⟩
  simp only [State.setFlags_flagZ, State.setFlags_flagS, State.setFlags_flagU, h1, h0]
  rw [State.branch_setFlags, State.branch_setFlags]
  exact State.branch_differs s label h

/-- Settles O52: the fetch reads 4 or 2 words, and the kinds of instruction keep the bit and do not depend on it. -/
theorem xchgBit : Obligations.XchgBit := by
  refine ⟨fun s words h => ?_, fun i s t ht => ⟨?_, exec_flipXchg ht⟩⟩
  · obtain ⟨-, bs, -, rfl⟩ := State.fetch_next h
    simp [wordsOfBytes, State.width]
  · by_cases hx : i = .xchg
    · subst hx
      cases ht
      rfl
    · rw [if_neg hx]
      exact exec_keeps_xchg hx ht

/-- Settles O53: of the kinds of instruction only data instructions use the accumulator, and of those three. -/
theorem accumulatorAccess : Obligations.AccumulatorAccess :=
  fun _ _ _ a ht => ⟨fun hw => exec_keeps_acc hw ht, fun hr => exec_setAcc a hr ht⟩
end

section
/-! SUPPORT. What a data instruction that completes can have done, the bundles that decode, and what a step of the
engine can have done: each said once. -/

namespace Sys2Proof.Machine

open Sys2Proof

/-! ### The effects of data instructions -/

/-- The source and the destination of the transfer an instruction starts (44_agu.md R352 to R356). -/
def Instr.route : Instr → Option (Space × Space)
  | .lddma _ _ _ _ _ | .lddmar _ _ _ => some (.ram, .dsram)
  | .stdma _ _ _ _ _ | .stdmar _ _ _ => some (.dsram, .ram)
  | .dmair _ _ _ => some (.ram, .isram)
  | _ => none

/-- General registers, accumulator, ports, free values and status may differ, and nothing else. -/
def State.Works (s t : State) : Prop :=
  t = { s with x := t.x, acc := t.acc, ioLog := t.ioLog, ioInputs := t.ioInputs, draws := t.draws, status := t.status }

/-- The value holds the lanes of `old` that are not selected. -/
def Lanes.Keeps (lanes : Lanes) (old value : Vec4) : Prop := ∀ k, k < 4 → lanes.toField < k → value.lane k = old.lane k

/-- What a data instruction `i` can do to a state before it goes on to the bundle that follows. -/
inductive DataEffect (i : Instr) (s : State) : State → Prop
  | work {t : State} (h : s.Works t) : DataEffect i s t
  | float {u : State} (h : s.Works u) (r : FReg) (value : BitVec 32) : DataEffect i s (u.setF r value)
  | double {u : State} (h : s.Works u) (r : DReg) (value : BitVec 64) : DataEffect i s (u.setD r value)
  | lanes {u : State} (h : s.Works u) (r : VReg) (lanes : Lanes) (value : Vec4)
      (hk : Lanes.Keeps lanes (u.getV r) value) : DataEffect i s (u.setLanes r lanes value)
  | store {t : State} (sp : Space) (a : Nat) (bs : List Byte) (hsp : sp = .dsram ∨ sp = .cache)
      (hin : a + bs.length ≤ s.sizeOf sp)
      (h : State.Works (s.setMem sp ((s.mem sp).writeBytes a bs)) t) : DataEffect i s t
  | transfer (tr : Transfer) (hroute : Instr.route i = some (tr.src, tr.dst)) (hs : tr.sound s = true)
      (hf : Transfer.inFlight tr = true) : DataEffect i s (s.setDmaq (s.dmaq ++ [tr]))

theorem State.works_self (s : State) : s.Works s := rfl

theorem State.works_postInc (s : State) (base : Reg) (inc : Bool) (n : Nat) : s.Works (s.postInc base inc n) := by
  cases inc <;> rfl

/-- The lanes that an instruction does not select keep their value (45_vfpu.md R372). -/
theorem mergeLanes_keeps (mode : NanResult) (counter : Nat) (lanes : Lanes) (old : Vec4)
    (res : Nat → Option (BitVec 32)) : Lanes.Keeps lanes old (mergeLanes mode counter lanes old res) := by
  intro k hk hl
  have hno : Lanes.has lanes k = false := by simpa [Lanes.has] using hl
  have hlane : (mergeLanes mode counter lanes old res).lane k =
      if Lanes.has lanes k then (res k).getD (nan32 mode (counter + k)) else old.lane k := by
    match k, hk with
    | 0, _ | 1, _ | 2, _ | 3, _ => rfl
  rw [hlane, hno]
  rfl

/-- A write of every lane keeps none. -/
theorem Lanes.keeps_xyzw (old value : Vec4) : Lanes.Keeps .xyzw old value := by
  intro k hk hl
  simp [Lanes.toField] at hl
  omega

variable {i : Instr} {s t : State}

theorem State.loadInt_effect {sp : Space} {data base : Reg} {a : Int} {size : Size} {inc : Bool}
    (h : s.loadInt sp data base a size inc = .next t) : ∃ u, DataEffect i s u ∧ t = u.advance := by
  obtain ⟨v, -, -, rfl⟩ := State.loadInt_next h
  refine ⟨_, .work ?_, rfl⟩
  cases inc <;> rfl

/-- A store that is in its space writes its bytes there. -/
theorem State.store_effect {sp : Space} {a : Int} {n v : Nat} {u : State} (hsp : sp = .dsram ∨ sp = .cache)
    (hst : s.store sp a n v = .next u) (h : u.Works t) : DataEffect i s t := by
  obtain ⟨hin, -, -, rfl⟩ := State.store_next hst
  simp only [State.inSpace, Bool.and_eq_true, decide_eq_true_eq] at hin
  exact .store sp a.toNat (leBytes n v) hsp (by rw [leBytes_length]; omega) h

theorem State.storeInt_effect {sp : Space} {data base : Reg} {a : Int} {size : Size} {inc : Bool}
    (hsp : sp = .dsram ∨ sp = .cache) (h : s.storeInt sp data base a size inc = .next t) :
    ∃ u, DataEffect i s u ∧ t = u.advance := by
  obtain ⟨u, hu, rfl⟩ := State.storeInt_next h
  exact ⟨_, State.store_effect hsp hu (State.works_postInc ..), rfl⟩

theorem State.storeWide_effect {sp : Space} {base : Reg} {a : Int} {n v : Nat} {inc : Bool}
    (hsp : sp = .dsram ∨ sp = .cache) (h : s.storeWide sp base a n v inc = .next t) :
    ∃ u, DataEffect i s u ∧ t = u.advance := by
  obtain ⟨u, hu, rfl⟩ := State.storeWide_next h
  exact ⟨_, State.store_effect hsp hu (State.works_postInc ..), rfl⟩

theorem State.loadVector_effect {sp : Space} {data : VReg} {base : Reg} {a : Int} {inc : Bool}
    (h : s.loadVector sp data base a inc = .next t) : ∃ u, DataEffect i s u ∧ t = u.advance := by
  obtain ⟨v, -, rfl⟩ := State.loadVector_next h
  exact ⟨_, .lanes (State.works_postInc ..) data .xyzw _ (Lanes.keeps_xyzw _ _), rfl⟩

theorem State.loadFloat_effect {sp : Space} {data : FReg} {base : Reg} {a : Int} {inc : Bool}
    (h : s.loadFloat sp data base a inc = .next t) : ∃ u, DataEffect i s u ∧ t = u.advance := by
  obtain ⟨v, -, rfl⟩ := State.loadFloat_next h
  exact ⟨_, .float (State.works_postInc ..) .., rfl⟩

theorem State.loadDouble_effect {sp : Space} {data : DReg} {base : Reg} {a : Int} {inc : Bool}
    (h : s.loadDouble sp data base a inc = .next t) : ∃ u, DataEffect i s u ∧ t = u.advance := by
  obtain ⟨v, -, rfl⟩ := State.loadDouble_next h
  exact ⟨_, .double (State.works_postInc ..) .., rfl⟩

theorem execInp_effect {data : Reg} {addr : BitVec 8} {size : Size} (h : execInp data addr size s = .next t) :
    ∃ u, DataEffect i s u ∧ t = u.advance := by
  obtain ⟨a, -, hk⟩ := andThen_next.1 h
  cases hk
  refine ⟨_, .work ?_, rfl⟩
  rfl

theorem State.outputIo_effect {a : Int} {n v : Nat} (h : s.outputIo a n v = .next t) :
    ∃ u, DataEffect i s u ∧ t = u.advance := by
  obtain ⟨-, -, rfl⟩ := State.outputIo_next h
  refine ⟨_, .work ?_, rfl⟩
  rfl

theorem State.writeLanes_effect (dst : VReg) (lanes : Lanes) (res : Nat → Option (BitVec 32)) :
    DataEffect i s (s.writeLanes dst lanes res) :=
  .lanes (u := s.tick 4) rfl dst lanes _ (mergeLanes_keeps _ _ _ _ _)

theorem State.writeFloat_effect (dst : FReg) (res : Option (BitVec 32)) : DataEffect i s (s.writeFloat dst res) :=
  .float (u := s.tick 1) rfl ..

theorem State.writeDouble_effect (dst : DReg) (res : Option (BitVec 64)) : DataEffect i s (s.writeDouble dst res) :=
  .double (u := s.tick 1) rfl ..

/-- A transfer of which no byte is copied has bytes to copy unless its length is 0. -/
theorem Transfer.inFlight_start (src dst : Space) (a b len : Nat) (h : len ≠ 0) :
    Transfer.inFlight ⟨src, a, dst, b, len, []⟩ = true := by
  simp [Transfer.inFlight, risingBelow, Transfer.pending, h]

/-- A transfer that starts between two memories with both ends and the length multiples of 32 (44_agu.md R351, R359). -/
theorem State.startAndAdvance_effect {src dst : Space} {a b : Int} {len : Nat} (hne : src ≠ dst)
    (hsrc : src ≠ .iosram) (hdst : dst ≠ .iosram) (ha : a % 32 = 0) (hb : b % 32 = 0) (hlen : len % 32 = 0)
    (hroute : Instr.route i = some (src, dst)) (h : s.startAndAdvance src a dst b len = .next t) :
    ∃ u, DataEffect i s u ∧ t = u.advance := by
  obtain ⟨u, hu, rfl⟩ := State.startAndAdvance_next h
  obtain ⟨-, rfl⟩ | ⟨h0, hra, hrb, -, -, rfl⟩ := State.startTransfer_next hu
  · exact ⟨u, .work rfl, rfl⟩
  · rw [State.rangeInSpace_iff] at hra hrb
    refine ⟨_, .transfer _ hroute ?_ (Transfer.inFlight_start _ _ _ _ _ h0), rfl⟩
    simp only [Transfer.sound, Bool.and_eq_true, bne_iff_ne, ne_eq, decide_eq_true_eq, beq_iff_eq]
    refine ⟨⟨⟨⟨⟨⟨⟨⟨hne, hsrc⟩, hdst⟩, ?_⟩, hlen⟩, ?_⟩, ?_⟩, ?_⟩, ?_⟩ <;> omega

/-- A data instruction that completes has one of the effects of data instructions, and goes on to the bundle that
follows. -/
theorem exec_data_effect (h : Instr.isData i = true) (ht : exec i s = .next t) :
    ∃ u, DataEffect i s u ∧ t = u.advance := by
  have hdirect (m : Mnemonic) (r : Reg) (base : BitVec 12) : s.directAddr m r base % 32 = 0 := by
    unfold State.directAddr Config.dmaGranule; omega
  have hlist (r : Reg) : ((s.listAddr r : Nat) : Int) % 32 = 0 := by
    unfold State.listAddr Config.dmaGranule; omega
  have hdirectLen (long : Bool) : directLen long % 32 = 0 := by cases long <;> rfl
  have hlistLen (m : Mnemonic) (blocks : BitVec 12) : s.listLen m blocks % 32 = 0 := by
    unfold State.listLen Config.dmaGranule; omega
  cases i with
  | cmp | cmpi | fcmp | fcmpi | dcmp | dcmpi | bne | beq | bl | ble | bg | bge | bls | bles | bgs | bges | call | jmp
  | callr | jmpr | ret | xchg | wait => cases h
  | ldm | ldmx | ldc => exact State.loadInt_effect ht
  | stm | stmx => exact State.storeInt_effect (.inl rfl) ht
  | stc => exact State.storeInt_effect (.inr rfl) ht
  | ldmv | ldcv => exact State.loadVector_effect ht
  | ldmf | ldcf => exact State.loadFloat_effect ht
  | ldmd | ldcd => exact State.loadDouble_effect ht
  | stmv | stmf | stmd => exact State.storeWide_effect (.inl rfl) ht
  | stcv | stcf | stcd => exact State.storeWide_effect (.inr rfl) ht
  | inp => exact execInp_effect ht
  | out | outi => exact State.outputIo_effect ht
  | lddma | stdma =>
    exact State.startAndAdvance_effect (by decide) (by decide) (by decide) (hdirect ..) (hdirect ..) (hdirectLen _) rfl
      ht
  | lddmar | stdmar | dmair =>
    exact State.startAndAdvance_effect (by decide) (by decide) (by decide) (hlist _) (hlist _) (hlistLen ..) rfl ht
  | faddVv | fsubVv | fmulVv | fmuladdVv | faddVf | fsubVf | fmulVf | fmuladdVf | fmuladdvao | itof0 | itof4 | itof8
  | itof15 => cases ht; exact ⟨_, State.writeLanes_effect .., rfl⟩
  | fipr | cvtD2f | cvtI2f | fdiv | fsqrt => cases ht; exact ⟨_, State.writeFloat_effect .., rfl⟩
  | faddD | fsubD | fmulD | fmuladdD | cvtF2d | cvtI2d | ddiv | dsqrt =>
    cases ht; exact ⟨_, State.writeDouble_effect .., rfl⟩
  | movefi => cases ht; exact ⟨_, .float s.works_self .., rfl⟩
  | movedi => cases ht; exact ⟨_, .double s.works_self .., rfl⟩
  | movevi => cases ht; exact ⟨_, .lanes s.works_self _ .xyzw _ (Lanes.keeps_xyzw _ _), rfl⟩
  | nop fin =>
    cases ht
    cases fin
    · exact ⟨s, .work rfl, rfl⟩
    · exact ⟨s.endRun, .work rfl, rfl⟩
  | _ =>
    cases ht
    refine ⟨_, .work ?_, rfl⟩
    rfl

/-! ### Bundles -/

/-- The LSU decodes to no control transfer. -/
theorem decodeLsu_isTransfer {w : Word} (h : decodeLsu w = .ok i) : Instr.isTransfer i = false := by
  simp only [decodeLsu, whenZero] at h
  (repeat' split at h) <;> cases h <;> rfl

/-- The ALU decodes to no control transfer. -/
theorem decodeAlu_isTransfer {w : Word} (h : decodeAlu w = .ok i) : Instr.isTransfer i = false := by
  simp only [decodeAlu, decodeRrr, decodeRri, decodeRi, whenZero] at h
  (repeat' split at h) <;> cases h <;> rfl

/-- The AGU decodes to no control transfer. -/
theorem decodeAgu_isTransfer {w : Word} (h : decodeAgu w = .ok i) : Instr.isTransfer i = false := by
  simp only [decodeAgu, whenZero] at h
  (repeat' split at h) <;> cases h <;> rfl

/-- The VFPU and the VDIV decode to no control transfer. -/
theorem decodeVfpu_isTransfer {k : Slot} {w : Word} (h : decodeVfpu k w = .ok i) : Instr.isTransfer i = false := by
  simp only [decodeVfpu, decodeVfpuArith, decodeFix, decodeVdiv, whenZero] at h
  (repeat' split at h) <;> cases h <;> rfl

/-- The check of a slot lets an instruction pass or refuses it. -/
theorem checkSlot_ok {k : Slot} {e : DecodeError} {r : Except DecodeError Instr} (h : checkSlot k e r = .ok i) :
    r = .ok i := by
  unfold checkSlot at h
  split at h
  · split at h
    · exact h
    · cases h
  · cases h

/-- Only slot 0 decodes to control transfers (40_bundle.md R163). -/
theorem decode_isTransfer {k : Slot} {w : Word} (hk : k ≠ 0) (h : decode k w = .ok i) :
    Instr.isTransfer i = false := by
  unfold decode at h
  split at h
  · exact absurd rfl hk
  · exact decodeAgu_isTransfer h
  · exact decodeLsu_isTransfer (checkSlot_ok h)
  · exact decodeLsu_isTransfer h
  · exact decodeAlu_isTransfer (checkSlot_ok h)
  · exact decodeVfpu_isTransfer h
  · exact decodeVfpu_isTransfer h
  · cases h

/-- The opcodes that slots 1 to 3 decode to are no control transfers. -/
theorem decodeFrom_isTransfer {pc : Addr} {k : Nat} {words : List Word} {is : List Instr} (hk : 0 < k)
    (hlen : k + words.length ≤ 4) (h : decodeFrom pc k words = .next is) : ∀ i ∈ is, Instr.isTransfer i = false := by
  induction words generalizing k is with
  | nil => cases h; simp
  | cons w rest ih =>
    simp only [List.length_cons] at hlen
    simp only [decodeFrom] at h
    split at h
    · cases h
    · rename_i i hi
      obtain ⟨js, hjs, hcons⟩ := andThen_next.1 h
      cases hcons
      have hslot : Fin.ofNat 4 k ≠ 0 := by
        rw [ne_eq, Fin.ext_iff]
        simp only [Fin.ofNat]
        change ¬(k % 4 = 0)
        omega
      simpa [decode_isTransfer hslot hi] using ih (by omega) (by omega) hjs

/-- A fetched bundle holds control transfers in slot 0 alone (40_bundle.md R163). -/
theorem State.fetchBundle_isTransfer {is : List Instr} (h : s.fetchBundle = .next is) :
    ∀ i ∈ is.tail, Instr.isTransfer i = false := by
  obtain ⟨words, hw, hd⟩ := andThen_next.1 h
  obtain ⟨-, bs, -, rfl⟩ := State.fetch_next hw
  have hlen : (wordsOfBytes s.width bs).length ≤ 4 := by
    simp only [wordsOfBytes, List.length_map, List.length_range, State.width]
    split <;> omega
  cases hws : wordsOfBytes s.width bs with
  | nil => rw [hws] at hd; cases hd; simp
  | cons w rest =>
    rw [hws] at hd hlen
    simp only [decodeFrom] at hd
    split at hd
    · cases hd
    · obtain ⟨js, hjs, hcons⟩ := andThen_next.1 hd
      cases hcons
      exact decodeFrom_isTransfer (by omega) (by simpa [Nat.add_comm] using hlen) hjs

/-- What the opcodes of slots 1 to 3 keep, and the two changes of pc around each of them keep, their commit keeps. -/
theorem commitRest_keeps {P : State → Prop} {pc : Addr} {rest : List Instr}
    (hto : ∀ u, P u → P (u.setPc pc)) (hback : ∀ u v, P u → P v → P (v.setPc u.pc))
    (hexec : ∀ i ∈ rest, ∀ u v, P u → exec i u = .next v → P v) (hs : P s) (h : commitRest pc rest s = .next t) :
    P t := by
  induction rest generalizing s with
  | nil => cases h; exact hs
  | cons i rest ih =>
    obtain ⟨u, hu, hrest⟩ := commitRest_next.1 h
    have hPu : P u := hexec i List.mem_cons_self _ _ (hto s hs) hu
    exact ih (fun j hj => hexec j (List.mem_cons_of_mem i hj)) (hback s u hs hPu) hrest

/-! ### The engine -/

/-- The script moves on and nothing else changes. -/
theorem State.pickTaken_eq (s : State) : s.pickTaken = { s with script := s.pickTaken.script } := by
  unfold State.pickTaken
  split <;> rfl

theorem State.turnTaken_eq (s : State) : s.turnTaken = { s with script := s.turnTaken.script } := by
  unfold State.turnTaken
  split <;> rfl

/-- The offsets not copied yet. -/
theorem Transfer.mem_pending {tr : Transfer} {k : Nat} : k ∈ tr.pending ↔ k < tr.len ∧ k ∉ tr.copied := by
  simp [Transfer.pending]

/-- A turn of the engine that answers: it found no transfer, took one off whose bytes are all copied, or copied a byte
of one that was not. -/
theorem State.engineMove_next (h : s.engineMove = .next t) :
    t = s.pickTaken ∨ ∃ j tr, s.dmaq[j]? = some tr ∧
      (t = (s.pickTaken.setDmaq (s.dmaq.eraseIdx j)).setLanded (s.landed ++ [{ tr with copied := [] }]) ∨
        ∃ k ∈ tr.pending, s.pickTaken.copyByte j tr k = .next t) := by
  unfold State.engineMove at h
  simp only [State.pickTaken_dmaq, State.pickTaken_landed] at h
  split at h
  · cases h
    exact .inl rfl
  · rename_i tr htr
    refine .inr ⟨_, tr, htr, ?_⟩
    split at h
    · cases h
      exact .inl rfl
    · rename_i k hk
      exact .inr ⟨k, List.mem_of_getElem? hk, h⟩

/-- A step that answers is a turn of the engine, or a bundle that runs, whose control transfers are in slot 0. -/
theorem step_next (h : step s = .next t) :
    ∃ s', (s' = s ∨ s' = s.turnTaken) ∧
      (s'.engineMove = .next t ∨
        ∃ is, (∀ i ∈ is.tail, Instr.isTransfer i = false) ∧ runBundle s' is = .next t) := by
  have hcore {s' : State} (hm : s'.coreMove = .next t) : s'.engineMove = .next t ∨
      ∃ is, (∀ i ∈ is.tail, Instr.isTransfer i = false) ∧ runBundle s' is = .next t := by
    obtain ⟨is, his, ⟨-, he⟩ | ⟨-, -, hr⟩⟩ := State.coreMove_next hm
    · exact .inl he
    · exact .inr ⟨is, State.fetchBundle_isTransfer his, hr⟩
  by_cases hrun : s.status = .running
  · rw [step_running hrun] at h
    unfold stepRunning at h
    split at h
    · exact ⟨s, .inl rfl, hcore h⟩
    · split at h
      · exact ⟨s, .inl rfl, .inl h⟩
      · exact ⟨s.turnTaken, .inr rfl, hcore h⟩
  · exact ⟨s, .inl rfl, .inl (step_stopped hrun h).2⟩

end Sys2Proof.Machine
end

section
/-! Who starts transfers and who writes ISRAM (10_state.md R39). -/

namespace Sys2Proof.Machine

open Sys2Proof

variable {i : Instr} {s t : State}

/-- The transfers in flight after an instruction are those before it and one of the instruction's own route. -/
theorem exec_starts (ht : exec i s = .next t) {tr : Transfer} (htr : tr ∈ t.dmaq) :
    tr ∈ s.dmaq ∨ Instr.route i = some (tr.src, tr.dst) := by
  obtain h | h | h | rfl | rfl := Instr.kind_cases i
  · obtain ⟨u, hu, rfl⟩ := exec_data_effect h ht
    rw [State.advance_dmaq] at htr
    cases hu with
    | work hw => rw [hw] at htr; exact .inl htr
    | float hw | double hw | lanes hw => rw [hw] at htr; exact .inl htr
    | store _ _ _ _ _ hw => rw [hw] at htr; simpa using Or.inl htr
    | transfer new hroute =>
      obtain hold | hnew := List.mem_append.1 htr
      · exact .inl hold
      · rw [List.mem_singleton.1 hnew]
        exact .inr hroute
  · rw [exec_compare_frame h ht] at htr
    exact .inl htr
  · rw [exec_transfer_frame h ht] at htr
    exact .inl htr
  · cases ht
    exact .inl htr
  · obtain ⟨-, rfl⟩ | ⟨-, rfl⟩ := execWait_next ht <;> exact .inl htr

/-- No route begins in ISRAM, and the one that ends there is DMAIR's, from RAM. -/
theorem Instr.route_isram {src dst : Space} (h : Instr.route i = some (src, dst)) :
    src ≠ .isram ∧ (dst = .isram → src = .ram ∧ ∃ a b c, i = .dmair a b c) := by
  cases i with
  | lddma | stdma | lddmar | stdmar => cases h; exact ⟨by decide, fun hd => by cases hd⟩
  | dmair a b c => cases h; exact ⟨by decide, fun _ => ⟨rfl, a, b, c, rfl⟩⟩
  | _ => cases h

/-- An instruction leaves ISRAM. -/
theorem exec_keeps_isram (ht : exec i s = .next t) : t.isram = s.isram := (exec_setIsram s.isram ht).1

/-- A bundle that runs leaves ISRAM. -/
theorem runBundle_keeps_isram {is : List Instr} (h : runBundle s is = .next t) : t.isram = s.isram := by
  obtain ⟨-, -, u, hu, rfl⟩ := runBundle_next h
  have hread : (s.readState is).isram = s.isram := by
    unfold State.readState
    split <;> rfl
  cases is with
  | nil => cases hu; exact hread
  | cons i rest =>
    obtain ⟨v, hv, hrest⟩ := commitBundle_next.1 hu
    rw [State.endBundle_isram]
    exact commitRest_keeps (P := fun u => u.isram = s.isram) (fun _ h => h) (fun _ _ _ h => h)
      (fun _ _ _ _ hu hj => (exec_keeps_isram hj).trans hu) ((exec_keeps_isram hv).trans hread) hrest

/-- A turn of the engine changes a byte of ISRAM only where a transfer in flight has its destination. -/
theorem engineMove_isram (h : s.engineMove = .next t) {c : Nat} (hc : t.byteAt .isram c ≠ s.byteAt .isram c) :
    ∃ tr ∈ s.dmaq, tr.dst = .isram ∧ tr.dstAddr ≤ c ∧ c < tr.dstAddr + tr.len := by
  have hpick : s.pickTaken.isram = s.isram := State.pickTaken_isram s
  obtain rfl | ⟨j, tr, htr, rfl | ⟨k, hk, hcopy⟩⟩ := State.engineMove_next h
  · exact absurd (congrArg (Memory.get? · c) hpick) hc
  · exact absurd (congrArg (Memory.get? · c) hpick) hc
  · refine ⟨tr, List.mem_of_getElem? htr, ?_⟩
    obtain ⟨b, -, hcase⟩ := State.copyByte_next hcopy
    have ht : t.isram =
        if tr.dst = .isram then (s.pickTaken.mem tr.dst).set (tr.dstAddr + k) b else s.isram := by
      obtain ⟨-, rfl⟩ | ⟨-, rfl⟩ := hcase <;> simp
    by_cases hd : tr.dst = .isram
    · have hlen := (Transfer.mem_pending.1 hk).1
      have hck : c = tr.dstAddr + k := by
        by_contra hne
        refine hc ?_
        change t.isram.get? c = s.isram.get? c
        rw [ht, if_pos hd, hd, Memory.get?_set_of_ne _ _ _ _ hne]
        exact congrArg (Memory.get? · c) hpick
      exact ⟨hd, by omega, by omega⟩
    · rw [if_neg hd] at ht
      exact absurd (congrArg (Memory.get? · c) ht) hc

end Sys2Proof.Machine

open Sys2Proof Sys2Proof.Machine

/-- Settles O54: instructions leave ISRAM and start transfers along their routes alone, and of a step only the engine's
copy writes it. -/
theorem isramIsWrittenByDmairOnly : Obligations.IsramIsWrittenByDmairOnly := by
  refine ⟨fun i s t m ht => ?_, fun s t c hst hc => ?_⟩
  · obtain ⟨hkeep, hset⟩ := exec_setIsram m ht
    refine ⟨hkeep, hset, fun tr htr hnew => ?_⟩
    exact Instr.route_isram ((exec_starts ht htr).resolve_left hnew)
  · obtain ⟨s', hs', hmove⟩ := step_next hst
    have hisram : s'.isram = s.isram := by obtain rfl | rfl := hs' <;> simp
    have hdmaq : s'.dmaq = s.dmaq := by obtain rfl | rfl := hs' <;> simp
    have hc' : t.byteAt .isram c ≠ s'.byteAt .isram c := by
      change t.isram.get? c ≠ s'.isram.get? c
      rw [hisram]
      exact hc
    obtain he | ⟨is, -, hrun⟩ := hmove
    · rw [← hdmaq]
      exact engineMove_isram he hc'
    · exact absurd (congrArg (Memory.get? · c) (runBundle_keeps_isram hrun)) hc'
end

section
/-! The invariant of the machine: its parts as propositions, what each shared operation does to them, and that every
step keeps it. -/

namespace Sys2Proof.Machine

open Sys2Proof

/-! ### Rising lists of offsets -/

/-- Offsets that rise from a bound on: strictly, each within the bounds. -/
theorem risingBelow_iff {bound lo : Nat} {l : List Nat} :
    risingBelow bound lo l = true ↔ l.Pairwise (· < ·) ∧ ∀ k ∈ l, lo ≤ k ∧ k < bound := by
  induction l generalizing lo with
  | nil => simp [risingBelow]
  | cons k rest ih =>
    simp only [risingBelow, Bool.and_eq_true, decide_eq_true_eq, ih, List.pairwise_cons, List.forall_mem_cons]
    constructor
    · rintro ⟨hk, hp, hr⟩
      exact ⟨⟨fun j hj => (hr j hj).1, hp⟩, hk, fun j hj => ⟨by have := (hr j hj).1; omega, (hr j hj).2⟩⟩
    · rintro ⟨⟨hlt, hp⟩, hk, hr⟩
      exact ⟨hk, hp, fun j hj => ⟨hlt j hj, (hr j hj).2⟩⟩

theorem mem_insertOffset {j k : Nat} {l : List Nat} : j ∈ insertOffset k l ↔ j = k ∨ j ∈ l := by
  induction l with
  | nil => simp [insertOffset]
  | cons h rest ih =>
    unfold insertOffset
    split
    · simp
    · split
      · rename_i hk
        simp [hk]
      · simp only [List.mem_cons, ih]
        tauto

/-- Adding an offset keeps the order. -/
theorem pairwise_insertOffset {k : Nat} {l : List Nat} (h : l.Pairwise (· < ·)) :
    (insertOffset k l).Pairwise (· < ·) := by
  induction l with
  | nil => simp [insertOffset]
  | cons j rest ih =>
    obtain ⟨hlt, hp⟩ := List.pairwise_cons.1 h
    unfold insertOffset
    split
    · rename_i hk
      refine List.pairwise_cons.2 ⟨?_, h⟩
      exact List.forall_mem_cons.2 ⟨hk, fun m hm => hk.trans (hlt m hm)⟩
    · split
      · exact h
      · refine List.pairwise_cons.2 ⟨fun m hm => ?_, ih hp⟩
        obtain rfl | hm := mem_insertOffset.1 hm
        · omega
        · exact hlt m hm

/-! ### Multiples of 8 -/

/-- A sum of multiples of 8 is one, modulo 2^64 too. -/
theorem aligned_add {a b : Addr} (ha : a.toNat % 8 = 0) (hb : b.toNat % 8 = 0) : (a + b).toNat % 8 = 0 := by
  rw [BitVec.toNat_add]
  omega

theorem aligned_mul_eight (a : Addr) : (a * 8#64).toNat % 8 = 0 := by
  rw [BitVec.toNat_mul]
  simp only [BitVec.toNat_ofNat]
  omega

theorem State.nextPc_aligned {s : State} (h : s.pc.toNat % 8 = 0) : s.nextPc.toNat % 8 = 0 := by
  refine aligned_add h ?_
  unfold State.width
  split <;> rfl

theorem State.relTarget_aligned {s : State} (h : s.pc.toNat % 8 = 0) (label : Label) :
    (s.relTarget label).toNat % 8 = 0 := by
  refine aligned_add ?_ (aligned_mul_eight _)
  unfold State.relBase
  split
  · exact h
  · exact State.nextPc_aligned h

/-! ### The parts of the invariant -/

theorem State.memSound_iff {s : State} {sp : Space} :
    s.memSound sp = true ↔ (s.mem sp).wf = true ∧ (s.mem sp).fits (s.sizeOf sp) = true := by
  simp [State.memSound]

/-- The destinations to settle are within LATENCY (70_reset_and_hazards.md R483). -/
def Unsettled.Within (p : Params) (u : Unsettled) : Prop := 1 ≤ u.bundles ∧ ∃ e ∈ p.latency, u.bundles ≤ e.2

/-- One file: under FPR_OVERLAY = shared every word of the three views is the same. -/
def State.ViewsAgree (s : State) : Prop :=
  ∀ lowFirst, s.params.fprOverlay = .shared lowFirst →
    ∀ n, s.doubleWord lowFirst n = s.getF n ∧ s.vectorWord n = s.getF n

theorem State.viewsAgree_iff {s : State} : s.viewsAgree = true ↔ s.ViewsAgree := by
  unfold State.viewsAgree State.ViewsAgree
  cases s.params.fprOverlay <;> simp

/-- The parts of the invariant, where the targets to come are due within BRANCH_DELAY plus `late` bundles less one:
`late` is 1 between bundles, and 2 inside one whose control transfer is taken. -/
structure State.Sound (late : Nat) (s : State) : Prop where
  params : s.params.valid = true
  pc : s.pc.toNat % 8 = 0
  returns : ∀ a ∈ s.rs, a.toNat % 8 = 0
  depth : s.rs.length ≤ s.params.callDepth
  memory : ∀ sp, s.memSound sp = true
  flying : ∀ tr ∈ s.dmaq, tr.sound s = true ∧ Transfer.inFlight tr = true
  landed : ∀ tr ∈ s.landed, tr.sound s = true
  targets : ∀ r ∈ s.redirects, r.target.toNat % 8 = 0
  rising : (s.redirects.map fun r => r.bundles).Pairwise (· < ·)
  windows : ∀ r ∈ s.redirects, 1 ≤ r.bundles ∧ r.bundles < s.params.branchDelay + late
  settling : ∀ u ∈ s.unsettled, Unsettled.Within s.params u
  views : s.ViewsAgree

/-- The invariant is its parts. -/
theorem State.invariant_iff {s : State} : s.invariant = true ↔ s.Sound 1 := by
  have hio : s.memSound .iosram = true := rfl
  simp only [State.invariant, State.redirectsSound, State.unsettledSound, Bool.and_eq_true, List.all_eq_true,
    decide_eq_true_eq, beq_iff_eq, List.any_eq_true, risingBelow_iff, State.viewsAgree_iff, List.forall_mem_map]
  constructor
  · rintro ⟨⟨⟨⟨⟨⟨⟨⟨⟨⟨⟨⟨hparams, hpc⟩, hreturns⟩, hdepth⟩, hisram⟩, hdsram⟩, hcache⟩, hram⟩, hflying⟩, hlanded⟩,
      htargets, hrising, hwindows⟩, hsettling⟩, hviews⟩
    exact ⟨hparams, hpc, hreturns, hdepth, fun sp => by cases sp <;> assumption, hflying, hlanded, htargets, hrising,
      hwindows, hsettling, hviews⟩
  · intro h
    exact ⟨⟨⟨⟨⟨⟨⟨⟨⟨⟨⟨⟨h.params, h.pc⟩, h.returns⟩, h.depth⟩, h.memory _⟩, h.memory _⟩, h.memory _⟩, h.memory _⟩,
      h.flying⟩, h.landed⟩, h.targets, h.rising, h.windows⟩, h.settling⟩, h.views⟩

/-! ### One file: the writes of floating registers keep it (10_state.md R37) -/

/-- The word of the double registers as the laws of the writes speak of it. -/
theorem State.doubleWord_eq (s : State) (lowFirst : Bool) (n : FReg) :
    s.doubleWord lowFirst n = wordOfDouble lowFirst s.d[FReg.double n] (n.val % 2) := by
  have hif : (n.val % 2 = 0) = (lowFirst = true) ↔ ((n.val % 2 == 0) == lowFirst) = true := by
    cases lowFirst <;> simp
  unfold State.doubleWord State.getD wordOfDouble
  by_cases h : ((n.val % 2 == 0) == lowFirst) = true
  · rw [if_pos (hif.2 h), if_pos h]
  · rw [if_neg fun e => h (hif.1 e), if_neg h]

variable {s t : State} {late : Nat}

theorem State.ViewsAgree.setF (h : s.ViewsAgree) (r : FReg) (value : BitVec 32) : (s.setF r value).ViewsAgree := by
  intro lowFirst hmode n
  rw [State.setF_params] at hmode
  obtain ⟨hd, hv⟩ := h lowFirst hmode n
  have hget : (s.setF r value).getF n = if n = r then value else s.getF n := by
    split
    · rename_i e; rw [e, State.getF_setF_self]
    · exact State.getF_setF_of_ne _ _ _ _ ‹_›
  rw [State.doubleWord_eq] at hd ⊢
  rw [State.setF_d, hmode, wordOfDouble_doublesAfterFloat, hget, hd]
  refine ⟨rfl, ?_⟩
  unfold State.vectorWord State.getV at hv ⊢
  rw [State.setF_v, hmode, lane_vectorsAfterFloat, hv]

theorem State.ViewsAgree.setD (h : s.ViewsAgree) (r : DReg) (value : BitVec 64) : (s.setD r value).ViewsAgree := by
  intro lowFirst hmode n
  rw [State.setD_params] at hmode
  obtain ⟨hd, hv⟩ := h lowFirst hmode n
  have hget : (s.setD r value).getF n =
      if n.val / 2 = r.val then wordOfDouble lowFirst value (n.val % 2) else s.getF n := by
    unfold State.getF
    rw [State.setD_f, hmode, getElem_floatsAfterDouble]
  rw [State.doubleWord_eq] at hd ⊢
  rw [hget]
  constructor
  · rw [← hd, State.setD_d]
    by_cases e : n.val / 2 = r.val
    · obtain rfl : r = FReg.double n := (Fin.ext e).symm
      simp [e]
    · have e' : r.val ≠ (FReg.double n).val := Ne.symm e
      simp [e, e']
  · unfold State.vectorWord State.getV at hv ⊢
    rw [State.setD_v, hmode, lane_vectorsAfterDouble, hv]

theorem State.ViewsAgree.setLanes (h : s.ViewsAgree) (r : VReg) (lanes : Lanes) (value : Vec4)
    (hk : Lanes.Keeps lanes (s.getV r) value) : (s.setLanes r lanes value).ViewsAgree := by
  intro lowFirst hmode n
  rw [State.setLanes_params] at hmode
  obtain ⟨hd, hv⟩ := h lowFirst hmode n
  have hget : (s.setLanes r lanes value).getF n =
      if n.val / 4 = r.val ∧ n.val % 4 ≤ lanes.toField then value.lane (n.val % 4) else s.getF n := by
    unfold State.getF
    rw [State.setLanes_f, hmode, getElem_floatsAfterLanes]
  rw [State.doubleWord_eq] at hd ⊢
  rw [hget, State.setLanes_d, hmode, wordOfDouble_doublesAfterLanes, hd]
  refine ⟨rfl, ?_⟩
  unfold State.vectorWord at hv ⊢
  by_cases e : FReg.vector n = r
  · have e' : n.val / 4 = r.val := congrArg Fin.val e
    rw [e] at hv
    rw [e, State.getV_setLanes_self]
    by_cases hl : n.val % 4 ≤ lanes.toField
    · rw [if_pos ⟨e', hl⟩]
    · rw [if_neg fun hc => hl hc.2, hk _ (by omega) (by omega), hv]
  · rw [State.getV_setLanes_of_ne _ _ _ _ _ e, hv, if_neg fun hc => e (Fin.ext hc.1)]

/-! ### Instructions keep the parts of the invariant -/

/-- What the invariant speaks of is the same, but for ISRAM, pc, flags and the like. -/
theorem State.Sound.works (hs : s.Sound late) (h : s.Works t) : t.Sound late := by
  rw [h]
  exact { hs with }

theorem State.Sound.setPc (hs : s.Sound late) {a : Addr} (ha : a.toNat % 8 = 0) : (s.setPc a).Sound late :=
  { hs with pc := ha }

theorem State.Sound.advance (hs : s.Sound late) : s.advance.Sound late :=
  hs.setPc (State.nextPc_aligned hs.pc)

/-- Replacing the bytes of a space by sound ones. -/
theorem State.Sound.setMem (hs : s.Sound late) (sp : Space) {m : Memory} (hwf : m.wf = true)
    (hfits : m.fits (s.sizeOf sp) = true) : (s.setMem sp m).Sound late := by
  have hmem (sp' : Space) : (s.setMem sp m).memSound sp' = true := by
    by_cases e : sp' = sp ∧ sp ≠ .iosram
    · obtain ⟨rfl, hio⟩ := e
      rw [State.memSound_iff]
      cases sp' <;> first | exact ⟨hwf, hfits⟩ | contradiction
    · have hold := hs.memory sp'
      cases sp <;> cases sp' <;> first | exact hold | simp at e
  cases sp <;> exact { hs with memory := hmem }

/-- The transfers in flight may change to sound ones. -/
theorem State.Sound.setDmaq (hs : s.Sound late) {q : List Transfer}
    (hq : ∀ tr ∈ q, tr.sound s = true ∧ Transfer.inFlight tr = true) : (s.setDmaq q).Sound late :=
  { hs with flying := hq }

theorem State.Sound.setLanded (hs : s.Sound late) {q : List Transfer} (hq : ∀ tr ∈ q, tr.sound s = true) :
    (s.setLanded q).Sound late :=
  { hs with landed := hq }

/-- The effects of data instructions keep the invariant. -/
theorem State.Sound.effect {i : Instr} (hs : s.Sound late) (h : DataEffect i s t) : t.Sound late := by
  cases h with
  | work h => exact hs.works h
  | float h r value => exact { hs.works h with views := (hs.works h).views.setF r value }
  | double h r value => exact { hs.works h with views := (hs.works h).views.setD r value }
  | lanes h r lanes value hk => exact { hs.works h with views := (hs.works h).views.setLanes r lanes value hk }
  | store sp a bs hsp hin h =>
    obtain ⟨hwf, hfits⟩ := State.memSound_iff.1 (hs.memory sp)
    exact (hs.setMem sp (Memory.wf_writeBytes _ a bs hwf) (Memory.fits_writeBytes _ _ a bs hfits hin)).works h
  | transfer tr hroute htr hf =>
    refine hs.setDmaq fun u hu => ?_
    obtain hu | hu := List.mem_append.1 hu
    · exact hs.flying u hu
    · rw [List.mem_singleton.1 hu]
      exact ⟨htr, hf⟩

/-- An instruction that is no control transfer keeps the invariant. -/
theorem State.Sound.exec {i : Instr} (hs : s.Sound late) (hi : Instr.isTransfer i = false)
    (ht : exec i s = .next t) : t.Sound late := by
  obtain h | h | h | rfl | rfl := Instr.kind_cases i
  · obtain ⟨u, hu, rfl⟩ := exec_data_effect h ht
    exact (hs.effect hu).advance
  · rw [exec_compare_frame h ht]
    exact { hs.advance with }
  · rw [hi] at h
    cases h
  · cases ht
    exact { hs.advance with }
  · obtain ⟨-, rfl⟩ | ⟨-, rfl⟩ := execWait_next ht
    · exact (hs.setLanded fun tr htr => absurd htr List.not_mem_nil).advance
    · exact hs

/-- More room for the targets to come. -/
theorem State.Sound.later (hs : s.Sound 1) : s.Sound 2 :=
  { hs with windows := fun r hr => ⟨(hs.windows r hr).1, by have := (hs.windows r hr).2; omega⟩ }

/-- A taken transfer to a multiple of 8 keeps the invariant, its target being due after the others. -/
theorem State.Sound.jump (hs : s.Sound 1) {a : Addr} (ha : a.toNat % 8 = 0) : (s.jump a).Sound 2 := by
  by_cases hd : s.params.branchDelay = 0
  · rw [State.jump_of_noDelay hd]
    exact hs.later.setPc ha
  · rw [State.jump_of_delay hd]
    have hnew (P : Redirect → Prop) (hold : ∀ r ∈ s.redirects, P r) (hlast : P ⟨s.params.branchDelay + 1, a⟩) :
        ∀ r ∈ s.redirects ++ [⟨s.params.branchDelay + 1, a⟩], P r :=
      List.forall_mem_append.2 ⟨hold, List.forall_mem_singleton.2 hlast⟩
    refine { hs.later.advance with targets := ?_, rising := ?_, windows := ?_ }
    · exact hnew _ hs.targets ha
    · refine List.map_append ▸ List.pairwise_append.2 ⟨hs.rising, List.pairwise_singleton _ _, ?_⟩
      intro j hj k hk
      obtain ⟨r, hr, rfl⟩ := List.mem_map.1 hj
      obtain rfl := List.mem_singleton.1 hk
      exact (hs.windows r hr).2
    · refine hnew _ hs.later.windows ⟨Nat.le_add_left 1 _, ?_⟩
      change s.params.branchDelay + 1 < s.params.branchDelay + 2
      omega

theorem State.Sound.setRs (hs : s.Sound late) {l : List Addr} (hl : ∀ a ∈ l, a.toNat % 8 = 0)
    (hlen : l.length ≤ s.params.callDepth) : (s.setRs l).Sound late :=
  { hs with returns := hl, depth := hlen }

/-- A control transfer keeps the invariant, its target being due after the others. -/
theorem State.Sound.exec_transfer {i : Instr} (hs : s.Sound 1) (hi : Instr.isTransfer i = true)
    (ht : Machine.exec i s = .next t) : t.Sound 2 := by
  have hrel (label : Label) := State.relTarget_aligned hs.pc label
  have habs (label : Label) : (absTarget label).toNat % 8 = 0 := aligned_mul_eight _
  have hcall {a : Addr} (ha : a.toNat % 8 = 0) (hc : s.callTo a = .next t) : t.Sound 2 := by
    obtain ⟨hroom, rfl⟩ := State.callTo_next hc
    exact (hs.setRs (List.forall_mem_cons.2 ⟨State.nextPc_aligned hs.pc, hs.returns⟩) hroom).jump ha
  obtain ⟨label, hb⟩ | hj := Instr.isTransfer_cases hi
  · obtain ⟨cond, -, -, hc⟩ := exec_conditional hb
    cases (hc s).symm.trans ht
    cases cond s.flagZ s.flagS s.flagU
    · exact hs.later.advance
    · exact hs.jump (hrel label)
  · cases i with
    | jmp => cases ht; exact hs.jump (habs _)
    | jmpr => cases ht; exact hs.jump (hrel _)
    | call => exact hcall (habs _) ht
    | callr => exact hcall (hrel _) ht
    | ret =>
      obtain ⟨a, rest, hr, rfl⟩ := State.returnFrom_next ht
      have hret := hs.returns
      have hdepth := hs.depth
      rw [hr, List.forall_mem_cons] at hret
      rw [hr, List.length_cons] at hdepth
      exact (hs.setRs hret.2 (by omega)).jump hret.1
    | _ => cases hj

/-! ### Bundles keep the invariant -/

/-- No instruction writes the parameters (10_state.md R46). -/
theorem exec_keeps_params {i : Instr} (ht : exec i s = .next t) : t.params = s.params := by
  obtain h | h | h | rfl | rfl := Instr.kind_cases i
  · obtain ⟨u, hu, rfl⟩ := exec_data_effect h ht
    rw [State.advance_params]
    cases hu with
    | work hw => rw [hw]
    | float hw | double hw | lanes hw => rw [hw]; rfl
    | store _ _ _ _ _ hw => rw [hw]; exact State.setMem_params ..
    | transfer => rfl
  · rw [exec_compare_frame h ht]
    rfl
  · rw [exec_transfer_frame h ht]
  · cases ht
    rfl
  · obtain ⟨-, rfl⟩ | ⟨-, rfl⟩ := execWait_next ht <;> rfl

/-- The destinations that begin to settle are within LATENCY. -/
theorem Instr.unsettledBy_within {i : Instr} {u : Unsettled} (hu : u ∈ Instr.unsettledBy i s) :
    Unsettled.Within s.params u := by
  unfold Instr.unsettledBy at hu
  split at hu
  · cases hu
  · rename_i k hk
    obtain ⟨l, -, rfl⟩ := List.mem_map.1 hu
    unfold Params.latencyOf at hk
    cases hl : s.params.latency.lookup i.mnemonic with
    | none => rw [hl] at hk; cases hk
    | some n =>
      obtain ⟨before, after, hlist, -⟩ := List.lookup_eq_some_iff.1 hl
      rw [hl, Option.getD_some] at hk
      exact ⟨Nat.le_add_left 1 k, (i.mnemonic, n), by simp [hlist], hk.ge⟩

/-- The end of a bundle: every window is one bundle shorter. -/
theorem State.Sound.endBundle (hs : s.Sound 2) {l : List Unsettled} (hl : ∀ u ∈ l, Unsettled.Within s.params u) :
    (s.endBundle l).Sound 1 := by
  have hmem {r : Redirect} (hr : r ∈ (s.endBundle l).redirects) :
      ∃ q ∈ s.redirects, 1 < q.bundles ∧ r = ⟨q.bundles - 1, q.target⟩ := by
    rw [State.endBundle_redirects] at hr
    obtain ⟨q, hq, rfl⟩ := List.mem_map.1 hr
    obtain ⟨hq, h1⟩ := List.mem_filter.1 hq
    exact ⟨q, hq, by simpa using h1, rfl⟩
  refine { hs with pc := ?_, targets := ?_, rising := ?_, windows := ?_, settling := ?_ }
  · rw [State.endBundle_pc]
    cases hf : s.redirects.find? fun r => r.bundles ≤ 1 with
    | none => exact hs.pc
    | some r => exact hs.targets r (List.mem_of_find?_eq_some hf)
  · intro r hr
    obtain ⟨q, hq, -, rfl⟩ := hmem hr
    exact hs.targets q hq
  · rw [State.endBundle_redirects, List.map_map, List.pairwise_map]
    refine ((List.pairwise_map.1 hs.rising).filter _).imp_of_mem fun hq hr hlt => ?_
    have h1 := (List.mem_filter.1 hq).2
    simp only [decide_eq_true_eq] at h1
    simp only [Function.comp_apply]
    omega
  · intro r hr
    obtain ⟨q, hq, h1, rfl⟩ := hmem hr
    have := (hs.windows q hq).2
    exact ⟨by simp only; omega, by simp only [State.endBundle_params]; omega⟩
  · rw [State.endBundle_unsettled]
    refine List.forall_mem_append.2 ⟨fun u hu => ?_, hl⟩
    obtain ⟨q, hq, rfl⟩ := List.mem_map.1 hu
    obtain ⟨hq, h1⟩ := List.mem_filter.1 hq
    obtain ⟨-, e, he, hle⟩ := hs.settling q hq
    simp only [decide_eq_true_eq] at h1
    exact ⟨by simp only; omega, e, he, by simp only; omega⟩

/-- A bundle whose control transfers are in slot 0 keeps the invariant when it runs. -/
theorem State.Sound.runBundle {is : List Instr} (hs : s.Sound 1) (his : ∀ i ∈ is.tail, Instr.isTransfer i = false)
    (h : runBundle s is = .next t) : t.Sound 1 := by
  obtain ⟨-, -, u, hu, rfl⟩ := runBundle_next h
  have hread : (s.readState is).Sound 1 := by
    unfold State.readState
    split
    · exact hs.setLanded fun tr htr => absurd htr List.not_mem_nil
    · exact hs
  have hparams : (s.readState is).params = s.params := by
    unfold State.readState
    split <;> rfl
  have hcommit : u.Sound 2 ∧ u.params = s.params := by
    cases is with
    | nil => cases hu; exact ⟨hread.later, hparams⟩
    | cons i rest =>
      obtain ⟨v, hv, hrest⟩ := commitBundle_next.1 hu
      have hfirst : v.Sound 2 := by
        cases hi : Instr.isTransfer i
        · exact hread.later.exec hi hv
        · exact hread.exec_transfer hi hv
      exact commitRest_keeps (P := fun w => w.Sound 2 ∧ w.params = s.params)
        (fun w hw => ⟨hw.1.setPc hread.pc, hw.2⟩) (fun w w' hw hw' => ⟨hw'.1.setPc hw.1.pc, hw'.2⟩)
        (fun j hj w w' hw hx => ⟨hw.1.exec (his j hj) hx, (exec_keeps_params hx).trans hw.2⟩)
        ⟨hfirst, (exec_keeps_params hv).trans hparams⟩ hrest
  obtain ⟨hsound, hp⟩ := hcommit
  refine hsound.endBundle fun w hw => ?_
  obtain ⟨i, -, hi⟩ := List.mem_flatMap.1 hw
  rw [hp, ← hparams]
  exact Instr.unsettledBy_within hi

/-! ### The engine keeps the invariant -/

/-- A transfer of which one more byte is copied is in flight while bytes are left. -/
theorem Transfer.inFlight_withCopied {tr : Transfer} {k : Nat} (h : Transfer.inFlight tr = true) (hk : k < tr.len)
    (hd : Transfer.isDone (tr.withCopied k) = false) : Transfer.inFlight (tr.withCopied k) = true := by
  simp only [Transfer.inFlight, Bool.and_eq_true, risingBelow_iff] at h ⊢
  obtain ⟨⟨hp, hb⟩, -⟩ := h
  refine ⟨⟨pairwise_insertOffset hp, fun j hj => ?_⟩, by simpa [Transfer.isDone] using hd⟩
  obtain rfl | hj := mem_insertOffset.1 hj
  · exact ⟨Nat.zero_le _, hk⟩
  · exact hb j hj

/-- A transfer taken off those in flight is one that no WAIT has ordered. -/
theorem State.Sound.land (hs : s.Sound late) {j : Nat} {tr : Transfer} (htr : tr ∈ s.dmaq) :
    ((s.setDmaq (s.dmaq.eraseIdx j)).setLanded (s.landed ++ [{ tr with copied := [] }])).Sound late := by
  refine (hs.setDmaq fun u hu => hs.flying u (List.mem_of_mem_eraseIdx hu)).setLanded ?_
  exact List.forall_mem_append.2 ⟨hs.landed, List.forall_mem_singleton.2 (hs.flying tr htr).1⟩

/-- A copied byte keeps the invariant. -/
theorem State.Sound.copyByte (hs : s.Sound late) {j k : Nat} {tr : Transfer} (htr : tr ∈ s.dmaq) (hk : k ∈ tr.pending)
    (h : s.copyByte j tr k = .next t) : t.Sound late := by
  obtain ⟨b, -, hcase⟩ := State.copyByte_next h
  obtain ⟨hsound, hflight⟩ := hs.flying tr htr
  have hklen := (Transfer.mem_pending.1 hk).1
  have hwritten : (s.setMem tr.dst ((s.mem tr.dst).set (tr.dstAddr + k) b)).Sound late := by
    obtain ⟨hwf, hfits⟩ := State.memSound_iff.1 (hs.memory tr.dst)
    simp only [Transfer.sound, Bool.and_eq_true, decide_eq_true_eq] at hsound
    exact hs.setMem _ (Memory.wf_set _ _ _ hwf) (Memory.fits_set _ _ _ _ hfits (by omega))
  generalize hw : s.setMem tr.dst ((s.mem tr.dst).set (tr.dstAddr + k) b) = w at hwritten hcase
  have hdmaq : w.dmaq = s.dmaq := by rw [← hw, State.setMem_dmaq]
  have hlanded : w.landed = s.landed := by rw [← hw, State.setMem_landed]
  rw [← hdmaq] at htr hcase
  rw [← hlanded] at hcase
  obtain ⟨-, rfl⟩ | ⟨hd, rfl⟩ := hcase
  · exact hwritten.land htr
  · refine hwritten.setDmaq fun u hu => ?_
    obtain hu | rfl := List.mem_or_eq_of_mem_set hu
    · exact hwritten.flying u hu
    · exact ⟨(hwritten.flying tr htr).1, Transfer.inFlight_withCopied hflight hklen hd⟩

/-- A turn of the engine keeps the invariant. -/
theorem State.Sound.engineMove (hs : s.Sound late) (h : s.engineMove = .next t) : t.Sound late := by
  have hpick : s.pickTaken.Sound late := by
    rw [State.pickTaken_eq]
    exact { hs with }
  obtain rfl | ⟨j, tr, hj, hcase⟩ := State.engineMove_next h
  · exact hpick
  have htr : tr ∈ s.pickTaken.dmaq := by
    rw [State.pickTaken_dmaq]
    exact List.mem_of_getElem? hj
  obtain rfl | ⟨k, hk, hcopy⟩ := hcase
  · rw [← State.pickTaken_dmaq, ← State.pickTaken_landed]
    exact hpick.land htr
  · exact hpick.copyByte htr hk hcopy

/-- Every step keeps the parts of the invariant. -/
theorem State.Sound.step (hs : s.Sound 1) (h : step s = .next t) : t.Sound 1 := by
  obtain ⟨s', hs', hmove⟩ := step_next h
  have hsound : s'.Sound 1 := by
    obtain rfl | rfl := hs'
    · exact hs
    · rw [State.turnTaken_eq]
      exact { hs with }
  obtain he | ⟨is, his, hrun⟩ := hmove
  · exact hsound.engineMove he
  · exact hsound.runBundle his hrun

/-! ### Reset -/

/-- The state after reset meets the parts of the invariant, RESET_PC being a multiple of 8 (70_reset_and_hazards.md
R471). -/
theorem State.sound_resetWith {p : Params} (hp : p.valid = true) : (State.resetWith p).Sound 1 := by
  have hpc : p.resetPc.toNat % 8 = 0 := by
    simp only [Params.valid, Bool.and_eq_true, beq_iff_eq] at hp
    exact hp.1.2
  have hviews : (State.resetWith p).ViewsAgree := fun lowFirst _ n => by
    have hlane (k : Nat) : Vec4.zero.lane k = 0 := by
      unfold Vec4.lane
      split <;> rfl
    simp [State.doubleWord, State.vectorWord, State.getD, State.getF, State.getV, State.resetWith, hlane]
  exact {
    params := hp
    pc := hpc
    returns := by simp [State.resetWith]
    depth := Nat.zero_le _
    memory := fun sp => by cases sp <;> rfl
    flying := by simp [State.resetWith]
    landed := by simp [State.resetWith]
    targets := by simp [State.resetWith]
    rising := List.Pairwise.nil
    windows := by simp [State.resetWith]
    settling := by simp [State.resetWith]
    views := hviews }

end Sys2Proof.Machine

open Sys2Proof Sys2Proof.Machine

/-- Settles O14: the invariant is its parts, and every step keeps them. -/
theorem stepKeepsTheInvariant : Obligations.StepKeepsTheInvariant :=
  fun _ _ hs ht => State.invariant_iff.2 ((State.invariant_iff.1 hs).step ht)

/-- Settles O16: the state after reset has no transfers, return addresses or windows, and its memories are empty. -/
theorem resetState : Obligations.ResetState := by
  refine ⟨fun p hp => ?_, rfl, by decide, rfl⟩
  refine ⟨rfl, rfl, rfl, rfl, rfl, rfl, rfl, rfl, fun sp a => by cases sp <;> rfl, ?_, rfl⟩
  exact State.invariant_iff.2 (State.sound_resetWith hp)
end

section
/-! SUPPORT. What an instruction that completes does to the transfers: it starts the one it asks for, or none, and it
orders earlier ones only as a WAIT. -/

namespace Sys2Proof.Machine

open Sys2Proof

variable {i : Instr} {s t : State}

/-! ### What an instruction asks to transfer -/

/-- The two readings of an immediate agree: by the sign bit, and by the number. -/
theorem State.immValue_eq_immOf {n : Nat} (s : State) (m : Mnemonic) (value : BitVec n) :
    s.immValue m value = s.immOf m value := by
  by_cases hm : m ∈ s.params.immSigned
  · rw [State.immValue_of_signed (by simpa [State.signsImm] using hm), BitVec.toInt_eq_toNat_cond]
    simp only [State.immOf, hm, true_and]
    split_ifs
    · omega
    · rfl
    · simp
    · omega
  · rw [State.immValue_of_unsigned (by simpa [State.signsImm] using hm)]
    simp [State.immOf, hm]

theorem State.directAddr_eq (s : State) (m : Mnemonic) (r : Reg) (base : BitVec 12) :
    s.directAddr m r base = 32 * ((s.getX r).toNat + s.immOf m base) := by
  rw [State.directAddr, State.effAddr, State.immValue_eq_immOf, mul_comm]
  rfl

theorem State.listAddr_eq (s : State) (r : Reg) : (s.listAddr r : Int) = 32 * (s.getX r).toNat := by
  simp [State.listAddr, Config.dmaGranule]

theorem directLen_eq (long : Bool) : directLen long = if long then 64 else 32 := by cases long <;> rfl

theorem State.listLen_eq (s : State) (m : Mnemonic) (blocks : BitVec 12) :
    s.listLen m blocks = 32 * (s.immOf m blocks).toNat := by
  rw [State.listLen, State.immValue_eq_immOf]
  rfl

/-- An instruction that asks for a transfer starts it and goes on (44_agu.md R351). -/
theorem exec_of_transfer {q : Request} (hq : Instr.transfer i s = some q) :
    exec i s = s.startAndAdvance q.src q.srcAddr q.dst q.dstAddr q.len := by
  have hsame {src dst : Space} {a a' b b' : Int} {len len' : Nat} (ha : a = a') (hb : b = b') (hlen : len = len') :
      s.startAndAdvance src a dst b len = s.startAndAdvance src a' dst b' len' := by rw [ha, hb, hlen]
  cases i with
  | lddma | stdma => cases hq; exact hsame (s.directAddr_eq ..) (s.directAddr_eq ..) (directLen_eq _)
  | lddmar | stdmar | dmair => cases hq; exact hsame (s.listAddr_eq _) (s.listAddr_eq _) (s.listLen_eq ..)
  | _ => cases hq

/-- What asks for no transfer has no route. -/
theorem Instr.route_of_no_transfer (hq : Instr.transfer i s = none) : Instr.route i = none := by
  cases i with
  | lddma | stdma | lddmar | stdmar | dmair => cases hq
  | _ => rfl

/-- The source and the destination of every transfer are a register, or a register plus a base, times 32, and its
length is a multiple of 32 (20_memory.md R65; 44_agu.md sections 2 and 3). -/
theorem Instr.transfer_granules {q : Request} (hq : Instr.transfer i s = some q) :
    (∃ (r : Reg) (base : BitVec 12), q.srcAddr = 32 * ((s.getX r).toNat + s.immOf i.mnemonic base)) ∧
      (∃ (r : Reg) (base : BitVec 12), q.dstAddr = 32 * ((s.getX r).toNat + s.immOf i.mnemonic base)) ∧
      q.len % 32 = 0 := by
  have hlist (m : Mnemonic) (r : Reg) : (32 * (s.getX r).toNat : Int) = 32 * ((s.getX r).toNat + s.immOf m 0#12) := by
    simp [State.immOf]
  have hlong (long : Bool) : (if long then 64 else 32) % 32 = 0 := by cases long <;> rfl
  cases i with
  | lddma | stdma => cases hq; exact ⟨⟨_, _, rfl⟩, ⟨_, _, rfl⟩, hlong _⟩
  | lddmar | stdmar | dmair => cases hq; exact ⟨⟨_, 0, hlist ..⟩, ⟨_, 0, hlist ..⟩, Nat.mul_mod_right ..⟩
  | _ => cases hq

/-! ### The transfers after an instruction -/

/-- The checks of a new transfer are those for its races (44_agu.md R351 (3)). -/
theorem State.newRaces_record (s : State) (q : Request) :
    s.newRaces q.record =
      (s.writeRaces q.dst q.dstAddr.toNat q.len || s.readRaces q.src q.srcAddr.toNat q.len) := by
  rw [Bool.eq_iff_iff]
  simp only [State.newRaces, State.writeRaces, State.readRaces, Transfer.races, Request.record, Bool.or_eq_true,
    List.any_eq_true, and_or_left, exists_or]

/-- What asks for no transfer starts none. -/
theorem exec_keeps_dmaq (hq : Instr.transfer i s = none) (ht : exec i s = .next t) : t.dmaq = s.dmaq := by
  obtain h | h | h | rfl | rfl := Instr.kind_cases i
  · obtain ⟨u, hu, rfl⟩ := exec_data_effect h ht
    rw [State.advance_dmaq]
    cases hu with
    | work hw => rw [hw]
    | float hw | double hw | lanes hw => rw [hw]; rfl
    | store _ _ _ _ _ hw => rw [hw]; exact State.setMem_dmaq ..
    | transfer tr hroute => rw [Instr.route_of_no_transfer hq] at hroute; cases hroute
  · rw [exec_compare_frame h ht]
    rfl
  · rw [exec_transfer_frame h ht]
  · cases ht
    rfl
  · obtain ⟨-, rfl⟩ | ⟨-, rfl⟩ := execWait_next ht <;> rfl

/-- The transfers in flight after an instruction: those before it, and the one it asks for when its ranges lie in
their spaces and it races with none (44_agu.md R351). -/
theorem exec_dmaq (ht : exec i s = .next t) :
    t.dmaq = s.dmaq ∨ ∃ q, Instr.transfer i s = some q ∧ q.sourceIn s ∧ q.destinationIn s ∧
      s.newRaces q.record = false ∧ t.dmaq = s.dmaq ++ [q.record] := by
  cases hq : Instr.transfer i s with
  | none => exact .inl (exec_keeps_dmaq hq ht)
  | some q =>
    rw [exec_of_transfer hq] at ht
    obtain ⟨u, hu, rfl⟩ := State.startAndAdvance_next ht
    obtain ⟨-, rfl⟩ | ⟨-, hsrc, hdst, hw, hr, rfl⟩ := State.startTransfer_next hu
    · exact .inl rfl
    · exact .inr ⟨q, rfl, State.rangeInSpace_iff.1 hsrc, State.rangeInSpace_iff.1 hdst,
        by rw [State.newRaces_record, hw, hr]; rfl, rfl⟩

/-- The transfers that no WAIT has ordered stay so, unless the instruction is a WAIT. -/
theorem exec_landed (ht : exec i s = .next t) : t.landed = s.landed ∨ t.landed = [] := by
  obtain h | h | h | rfl | rfl := Instr.kind_cases i
  · obtain ⟨u, hu, rfl⟩ := exec_data_effect h ht
    rw [State.advance_landed]
    cases hu with
    | work hw => rw [hw]; exact .inl rfl
    | float hw | double hw | lanes hw => rw [hw]; exact .inl rfl
    | store _ _ _ _ _ hw => rw [hw]; exact .inl (State.setMem_landed ..)
    | transfer => exact .inl rfl
  · rw [exec_compare_frame h ht]
    exact .inl rfl
  · rw [exec_transfer_frame h ht]
    exact .inl rfl
  · cases ht
    exact .inl rfl
  · obtain ⟨-, rfl⟩ | ⟨-, rfl⟩ := execWait_next ht
    · exact .inr rfl
    · exact .inl rfl

end Sys2Proof.Machine
end

section
/-! The transfers that no WAIT has ordered stay free of races with each other (20_memory.md R76). -/

namespace Sys2Proof.Machine

open Sys2Proof

variable {i : Instr} {s t : State}

/-! ### Races as a relation -/

/-- Two transfers are apart when they do not race (20_memory.md R76). -/
def Transfer.Apart (tr u : Transfer) : Prop := tr.races u = false

theorem rangesOverlap_comm (a n b m : Nat) : rangesOverlap a n b m = rangesOverlap b m a n := by
  rw [Bool.eq_iff_iff, rangesOverlap_iff, rangesOverlap_iff]
  exact exists_congr fun c => and_comm

/-- Which of two transfers comes first does not matter to their race. -/
theorem Transfer.races_comm (tr u : Transfer) : tr.races u = u.races tr := by
  simp only [Transfer.races, Transfer.writes, Transfer.reads, rangesOverlap_comm tr.dstAddr,
    rangesOverlap_comm tr.srcAddr, BEq.comm (a := tr.dst), BEq.comm (a := tr.src)]
  exact Bool.or_right_comm ..

theorem noRaces_iff {l : List Transfer} : noRaces l = true ↔ l.Pairwise Transfer.Apart := by
  induction l with
  | nil => simp [noRaces]
  | cons tr rest ih => simp [noRaces, ih, Transfer.Apart]

/-- The order of the transfers does not matter to their races. -/
theorem noRaces_perm {l k : List Transfer} (h : l.Perm k) : noRaces l = noRaces k := by
  have hsymm {tr u : Transfer} (hr : tr.Apart u) : u.Apart tr := (Transfer.races_comm u tr).trans hr
  rw [Bool.eq_iff_iff, noRaces_iff, noRaces_iff]
  exact h.pairwise_iff hsymm

/-- Fewer transfers have fewer races. -/
theorem noRaces_sublist {l k : List Transfer} (hk : noRaces k = true) (h : l.Sublist k) : noRaces l = true :=
  noRaces_iff.2 ((noRaces_iff.1 hk).sublist h)

/-- A transfer that races with none of the others can join them. -/
theorem noRaces_cons {tr : Transfer} {l : List Transfer} (hl : noRaces l = true)
    (h : l.any (fun u => u.races tr) = false) : noRaces (tr :: l) = true := by
  refine noRaces_iff.2 (List.pairwise_cons.2 ⟨fun u hu => ?_, noRaces_iff.1 hl⟩)
  exact (Transfer.races_comm tr u).trans (Bool.eq_false_iff.2 (List.any_eq_false.1 h u hu))

/-- What a transfer moves, whatever part of it is copied. -/
def Transfer.outline (tr : Transfer) : Transfer := { tr with copied := [] }

/-- How much of the transfers is copied does not matter to their races. -/
theorem noRaces_map_outline (l : List Transfer) : noRaces (l.map Transfer.outline) = noRaces l := by
  rw [Bool.eq_iff_iff, noRaces_iff, noRaces_iff, List.pairwise_map]
  rfl

/-! ### Instructions and bundles -/

/-- An instruction that completes starts no transfer that races. -/
theorem exec_raceFree (hs : s.raceFree = true) (ht : exec i s = .next t) : t.raceFree = true := by
  have hlanded : t.landed.Sublist s.landed := by
    obtain h | h := exec_landed ht <;> rw [h]
    exact List.nil_sublist _
  obtain hd | ⟨q, -, -, -, hnew, hd⟩ := exec_dmaq ht
  · refine noRaces_sublist hs ?_
    rw [State.unordered, hd]
    exact hlanded.append_left _
  · have hall : noRaces (q.record :: s.unordered) = true := noRaces_cons hs hnew
    have hperm : (s.dmaq ++ [q.record] ++ s.landed).Perm (q.record :: s.unordered) := by
      rw [List.append_assoc]
      exact List.perm_middle
    rw [← noRaces_perm hperm] at hall
    refine noRaces_sublist hall ?_
    rw [State.unordered, hd]
    exact hlanded.append_left _

/-- A bundle that runs starts no transfer that races. -/
theorem runBundle_raceFree {is : List Instr} (hs : s.raceFree = true) (h : runBundle s is = .next t) :
    t.raceFree = true := by
  obtain ⟨-, -, u, hu, rfl⟩ := runBundle_next h
  have hread : (s.readState is).raceFree = true := by
    unfold State.readState
    split
    · exact noRaces_sublist hs ((List.nil_sublist _).append_left _)
    · exact hs
  cases is with
  | nil => cases hu; exact hread
  | cons i rest =>
    obtain ⟨v, hv, hrest⟩ := commitBundle_next.1 hu
    have hfirst : v.raceFree = true := exec_raceFree hread hv
    change u.raceFree = true
    exact commitRest_keeps (P := fun w => w.raceFree = true) (fun _ hw => hw) (fun _ _ _ hw => hw)
      (fun _ _ _ _ hw hx => exec_raceFree hw hx) hfirst hrest

/-! ### The engine -/

/-- A transfer that goes from those in flight to those that no WAIT has ordered. -/
theorem land_outlines {q landed : List Transfer} {j : Nat} {tr : Transfer} (hj : q[j]? = some tr) :
    ((q.eraseIdx j ++ (landed ++ [{ tr with copied := [] }])).map Transfer.outline).Perm
      ((q ++ landed).map Transfer.outline) := by
  obtain ⟨hlt, rfl⟩ := List.getElem?_eq_some_iff.1 hj
  have hmoved : (q.eraseIdx j ++ (landed ++ [q[j]])).Perm (q ++ landed) := by
    rw [← List.append_assoc]
    exact (List.perm_append_singleton ..).trans ((List.getElem_cons_eraseIdx_perm hlt).append_right landed)
  have hcopied : Transfer.outline { q[j] with copied := [] } = q[j].outline := rfl
  simpa [hcopied] using hmoved.map Transfer.outline

/-- A transfer of which one more byte is copied. -/
theorem withCopied_outlines {q : List Transfer} {j k : Nat} {tr : Transfer} (hj : q[j]? = some tr) :
    (q.set j (tr.withCopied k)).map Transfer.outline = q.map Transfer.outline := by
  obtain ⟨hlt, rfl⟩ := List.getElem?_eq_some_iff.1 hj
  have hsame : Transfer.outline (q[j].withCopied k) = (q.map Transfer.outline)[j]'(by simpa using hlt) := by
    rw [List.getElem_map]
    rfl
  rw [List.map_set, hsame, List.set_getElem_self]

/-- A turn of the engine changes how much of the transfers is copied, and which of them are in flight, but not which
ones no WAIT has ordered. -/
theorem engineMove_outlines (h : s.engineMove = .next t) :
    (t.unordered.map Transfer.outline).Perm (s.unordered.map Transfer.outline) := by
  obtain rfl | ⟨j, tr, hj, rfl | ⟨k, -, hcopy⟩⟩ := State.engineMove_next h
  · simp [State.unordered]
  · exact land_outlines hj
  · obtain ⟨b, -, ⟨-, rfl⟩ | ⟨-, rfl⟩⟩ := State.copyByte_next hcopy
    · simpa [State.unordered] using land_outlines hj
    · simp [State.unordered, withCopied_outlines hj]

theorem engineMove_raceFree (hs : s.raceFree = true) (h : s.engineMove = .next t) : t.raceFree = true := by
  rw [State.raceFree, ← noRaces_map_outline, noRaces_perm (engineMove_outlines h), noRaces_map_outline]
  exact hs

end Sys2Proof.Machine

open Sys2Proof Sys2Proof.Machine

/-- Settles O15: a new transfer starts only when it races with none, and the engine changes no transfer's ranges. -/
theorem stepKeepsTransfersRaceFree : Obligations.StepKeepsTransfersRaceFree := by
  intro s t hs ht
  obtain ⟨s', hs', hmove⟩ := step_next ht
  have hfree : s'.raceFree = true := by
    obtain rfl | rfl := hs'
    · exact hs
    · rw [State.turnTaken_eq]
      exact hs
  obtain he | ⟨is, -, hrun⟩ := hmove
  · exact engineMove_raceFree hfree he
  · exact runBundle_raceFree hfree hrun

/-- Settles O38: a transfer starts as the instruction asks, and what it asks for counts in units of 32 bytes. -/
theorem transferAlignment : Obligations.TransferAlignment := by
  intro i s t ht
  obtain hd | ⟨q, hq, ⟨hsrc, -⟩, ⟨hdst, -⟩, -, hd⟩ := exec_dmaq ht
  · exact .inl hd
  obtain ⟨⟨r, base, hr⟩, ⟨r', base', hr'⟩, hlen⟩ := Instr.transfer_granules hq
  refine .inr ⟨q.record, hd, ⟨r, base, ?_⟩, ⟨r', base', ?_⟩, hlen, ?_, ?_⟩
  · exact (Int.toNat_of_nonneg hsrc).trans hr
  · exact (Int.toNat_of_nonneg hdst).trans hr'
  · change q.srcAddr.toNat % 32 = 0
    omega
  · change q.dstAddr.toNat % 32 = 0
    omega
end

section
/-! SUPPORT. The bytes that a read finds, and the value they make. -/

namespace Sys2Proof.Machine

open Sys2Proof

/-! ### Bytes of a value -/

/-- The bytes of the value of bytes are those bytes. -/
theorem leBytes_leNat (bs : List Byte) : leBytes bs.length (leNat bs) = bs := by
  induction bs with
  | nil => rfl
  | cons b bs ih =>
    have hb := b.isLt
    have hlow : BitVec.ofNat 8 (b.toNat + 256 * leNat bs) = b := by
      apply BitVec.eq_of_toNat_eq
      rw [BitVec.toNat_ofNat]
      omega
    have hhigh : (b.toNat + 256 * leNat bs) / 256 = leNat bs := by omega
    rw [List.length_cons, leNat, leBytes, hlow, hhigh, ih]

/-- Byte `k` of the opcode that four bytes make (20_memory.md R60). -/
theorem byteOf_wordOfBytes {bs : List Byte} (hbs : bs.length = 4) {k : Nat} (hk : k < 4) :
    bs[k]? = some (byteOf (wordOfBytes bs) k) := by
  have hbyte := leBytes_getElem? 4 (leNat bs) k hk
  rw [← hbs, leBytes_leNat] at hbyte
  rw [hbyte]
  congr 1
  apply BitVec.eq_of_toNat_eq
  have hpow : 256 ^ k = 2 ^ (8 * k) := by rw [pow_mul]; norm_num
  simp only [byteOf, wordOfBytes, BitVec.extractLsb'_toNat, BitVec.toNat_ofNat, Nat.shiftRight_eq_div_pow, hpow]
  interval_cases k <;> omega

/-- The words of a bundle's bytes, each made of its four. -/
theorem wordsOfBytes_getElem? {count n : Nat} {bs : List Byte} {w : Word}
    (hw : (wordsOfBytes count bs)[n]? = some w) : n < count ∧ w = wordOfBytes ((bs.drop (4 * n)).take 4) := by
  obtain ⟨hlt, rfl⟩ := List.getElem?_eq_some_iff.1 hw
  simp only [wordsOfBytes, List.length_map, List.length_range] at hlt
  exact ⟨hlt, by simp [wordsOfBytes]⟩

/-! ### Reads of a memory -/

/-- A read of bytes that hold values gives them. -/
theorem Memory.readBytes_of_get? {m : Memory} {a : Nat} {bs : List Byte}
    (h : ∀ k, k < bs.length → m.get? (a + k) = bs[k]?) : m.readBytes a bs.length = .ok bs := by
  cases hr : m.readBytes a bs.length with
  | ok cs =>
    obtain ⟨hlen, hget⟩ := Memory.readBytes_ok hr
    congr 1
    refine List.ext_getElem? fun k => ?_
    by_cases hk : k < bs.length
    · rw [← hget k hk, h k hk]
    · rw [List.getElem?_eq_none (by omega), List.getElem?_eq_none (by omega)]
  | error e =>
    obtain ⟨hle, hlt, hnone, -⟩ := Memory.readBytes_error hr
    have hheld := h (e - a) (by omega)
    rw [Nat.add_sub_cancel' hle, hnone, List.getElem?_eq_getElem (by omega)] at hheld
    cases hheld

/-- A read of bytes inside those of a value just written gives the bytes of that part of the value (20_memory.md
R62). -/
theorem Memory.readBytes_writeBytes_leBytes (mem : Memory) {a n k m : Nat} (v : Nat) (h : k + m ≤ n) :
    (mem.writeBytes a (leBytes n v)).readBytes (a + k) m = .ok (leBytes m (v / 256 ^ k)) := by
  have hread := Memory.readBytes_of_get? (m := mem.writeBytes a (leBytes n v)) (a := a + k)
    (bs := leBytes m (v / 256 ^ k)) fun j hj => ?_
  · rwa [leBytes_length] at hread
  · rw [leBytes_length] at hj
    rw [Nat.add_assoc, Memory.get?_writeBytes _ _ _ _ (by rw [leBytes_length]; omega), leBytes_getElem? _ _ _ (by omega),
      leBytes_getElem? _ _ _ hj, Nat.div_div_eq_div_mul, pow_add]

theorem State.mem_setMem_self (s : State) {sp : Space} (m : Memory) (h : sp ≠ .iosram) : (s.setMem sp m).mem sp = m := by
  cases sp with
  | iosram => contradiction
  | _ => rfl

/-! ### Accesses inside accesses -/

theorem State.sizeOf_setMem (s : State) (sp sp' : Space) (m : Memory) :
    (s.setMem sp m).sizeOf sp' = s.sizeOf sp' := by
  cases sp' <;> simp [State.sizeOf]

theorem State.unordered_setMem (s : State) (sp : Space) (m : Memory) :
    (s.setMem sp m).unordered = s.unordered := by
  simp [State.unordered]

/-- A range that holds the bytes of another overlaps what that one overlaps. -/
theorem rangesOverlap_mono {a n b m b' m' : Nat} (h : rangesOverlap a n b m = true) (hb : b' ≤ b)
    (hm : b + m ≤ b' + m') : rangesOverlap a n b' m' = true := by
  obtain ⟨c, hc, hl, hr⟩ := rangesOverlap_iff.1 h
  exact rangesOverlap_iff.2 ⟨c, hc, by omega, by omega⟩

/-- Where a write races with no transfer, a read inside it does not either (20_memory.md R76). -/
theorem State.readRaces_of_writeRaces {s : State} {sp : Space} {a n b m : Nat} (h : s.writeRaces sp a n = false)
    (hb : a ≤ b) (hm : b + m ≤ a + n) : s.readRaces sp b m = false := by
  refine List.any_eq_false.2 fun tr htr hw => List.any_eq_false.1 h tr htr ?_
  simp only [Transfer.writes, Bool.and_eq_true] at hw
  simp [Transfer.writes, hw.1, rangesOverlap_mono hw.2 hb hm]

/-- A load that passes its checks and finds its bytes gives their value. -/
theorem State.load_of_checks {s : State} {sp : Space} {a n : Nat} {bs : List Byte} (hin : s.inSpace sp a n = true)
    (hal : s.alignedFor a n = true) (hr : s.readRaces sp a n = false) (hb : (s.mem sp).readBytes a n = .ok bs) :
    s.load sp a n = .next (leNat bs) := by
  have hcheck : s.checkAccess sp a n = .next a := State.checkAccess_next.2 ⟨hin, hal, rfl⟩
  rw [State.load, hcheck, andThen_next_left, if_neg (by simp [hr]), hb]

end Sys2Proof.Machine

open Sys2Proof Sys2Proof.Machine

/-- Settles O6: the fetch reads the bytes at pc, and each word is made of its four. -/
theorem fetchIsLittleEndian : Obligations.FetchIsLittleEndian := by
  intro s words h
  obtain ⟨-, bs, hbs, rfl⟩ := State.fetch_next h
  obtain ⟨hlen, hget⟩ := Memory.readBytes_ok hbs
  refine ⟨by simp [wordsOfBytes, State.width], fun n w hw b hb => ?_⟩
  obtain ⟨hn, rfl⟩ := wordsOfBytes_getElem? hw
  have hfour : ((bs.drop (4 * n)).take 4).length = 4 := by
    rw [List.length_take, List.length_drop]
    omega
  rw [← byteOf_wordOfBytes hfour hb, List.getElem?_take_of_lt hb, List.getElem?_drop, Nat.add_assoc]
  exact hget (4 * n + b) (by omega)

/-- Settles O35: the load passes its checks because the store did, and its bytes are among those stored. -/
theorem mixedWidthAccessSeesBytes : Obligations.MixedWidthAccessSeesBytes := by
  intro s t sp a n k m v hsp ha hst hm hkm hal
  obtain ⟨hin, -, hraces, ht⟩ := State.store_next hst
  rw [Int.toNat_natCast] at hraces ht
  have hmem : t.mem sp = (s.mem sp).writeBytes a (leBytes n v) := by rw [ht, State.mem_setMem_self s _ hsp]
  have hin' : t.inSpace sp ((a + k : Nat) : Int) m = true := by
    have hsize : t.sizeOf sp = s.sizeOf sp := by rw [ht, State.sizeOf_setMem]
    simp only [State.inSpace, Bool.and_eq_true, decide_eq_true_eq, hsize] at hin ⊢
    omega
  have hal' : t.alignedFor (a + k) m = true := by
    unfold State.alignedFor
    split
    · simpa using hal ‹_›
    · rfl
  have hr : t.readRaces sp (a + k) m = false := by
    rw [State.readRaces, ht, State.unordered_setMem]
    exact State.readRaces_of_writeRaces hraces (by omega) (by omega)
  have hbytes : (t.mem sp).readBytes (a + k) m = .ok (leBytes m (v / 256 ^ k)) := by
    rw [hmem]
    exact Memory.readBytes_writeBytes_leBytes _ v hkm
  have hload := State.load_of_checks hin' hal' hr hbytes
  rwa [leNat_leBytes] at hload
end

section
/-! SUPPORT. A word and its bit fields (00_scope.md R6): a field inside a field, what a word is whose fields are given,
and what the readers of operand fields find. -/

namespace Sys2Proof

variable {w : Word}

/-! ### Bit fields -/

theorem field_lt (w : Word) (hi lo : Nat) : field w hi lo < 2 ^ (hi + 1 - lo) := Nat.mod_lt _ (Nat.two_pow_pos _)

/-- A field inside a field. -/
theorem field_of_field (w : Word) {hi lo a b : Nat} (hlo : lo ≤ b) (hab : b ≤ a) (hhi : a ≤ hi) :
    field w a b = field w hi lo / 2 ^ (b - lo) % 2 ^ (a + 1 - b) := by
  have hwidth : 2 ^ (hi + 1 - lo) = 2 ^ (b - lo) * 2 ^ (hi + 1 - b) := by
    rw [← pow_add]
    congr 1
    omega
  have hdvd : 2 ^ (a + 1 - b) ∣ 2 ^ (hi + 1 - b) := pow_dvd_pow 2 (by omega)
  rw [field, field, hwidth, Nat.mod_mul_right_div_self, Nat.mod_mod_of_dvd _ hdvd, Nat.div_div_eq_div_mul, ← pow_add,
    Nat.add_sub_cancel' hlo]

/-- A number in the bits `hi` to `lo` of a word. -/
structure BitField where
  hi : Nat
  lo : Nat
  value : Nat

/-- The word has the fields. -/
def HasFields (w : Word) (fields : List BitField) : Prop := ∀ f ∈ fields, field w f.hi f.lo = f.value

@[simp] theorem hasFields_nil : HasFields w [] := by simp [HasFields]

@[simp] theorem hasFields_cons {f : BitField} {rest : List BitField} :
    HasFields w (f :: rest) ↔ field w f.hi f.lo = f.value ∧ HasFields w rest :=
  List.forall_mem_cons

/-- Whether fields, the lowest first, cover the bits `lo` to 31 without a gap. -/
def tile : (lo : Nat) → List BitField → Bool
  | lo, [] => lo == 32
  | lo, f :: rest => f.lo == lo && (decide (lo ≤ f.hi) && tile (f.hi + 1) rest)

/-- Every number fits into its field. -/
def Fit (fields : List BitField) : Prop := ∀ f ∈ fields, f.value < 2 ^ (f.hi + 1 - f.lo)

/-- The number whose bits are those of the fields, the lowest first. -/
def joined : List BitField → Nat
  | [] => 0
  | f :: rest => f.value + 2 ^ (f.hi + 1 - f.lo) * joined rest

theorem tile_cons {lo : Nat} {f : BitField} {rest : List BitField} (h : tile lo (f :: rest) = true) :
    f.lo = lo ∧ lo ≤ f.hi ∧ tile (f.hi + 1) rest = true := by
  simpa [tile] using h

theorem tile_le {lo : Nat} {fields : List BitField} (h : tile lo fields = true) : lo ≤ 32 := by
  induction fields generalizing lo with
  | nil => exact (beq_iff_eq.1 h).le
  | cons f rest ih =>
    obtain ⟨-, hle, hrest⟩ := tile_cons h
    exact (Nat.le_succ_of_le hle).trans (ih hrest)

/-- Fields that cover the bits from `lo` up make a number of as many bits. -/
theorem joined_lt {lo : Nat} {fields : List BitField} (h : tile lo fields = true) (hfit : Fit fields) :
    joined fields < 2 ^ (32 - lo) := by
  induction fields generalizing lo with
  | nil => exact Nat.two_pow_pos _
  | cons f rest ih =>
    obtain ⟨rfl, hle, hrest⟩ := tile_cons h
    obtain ⟨hf, hfit⟩ := List.forall_mem_cons.1 hfit
    have hle' := tile_le hrest
    have hpow : 2 ^ (32 - f.lo) = 2 ^ (f.hi + 1 - f.lo) * 2 ^ (32 - (f.hi + 1)) := by
      rw [← pow_add]
      congr 1
      omega
    rw [joined, hpow]
    calc f.value + 2 ^ (f.hi + 1 - f.lo) * joined rest
        < 2 ^ (f.hi + 1 - f.lo) * (joined rest + 1) := by rw [Nat.mul_succ, Nat.add_comm]; omega
      _ ≤ _ := Nat.mul_le_mul_left _ (ih hrest hfit)

/-- The bits of a word from `lo` up are the number that fields covering them make exactly when the word has the
fields. -/
theorem joined_eq_iff {lo : Nat} {fields : List BitField} (h : tile lo fields = true) (hfit : Fit fields) :
    joined fields = w.toNat / 2 ^ lo ↔ HasFields w fields := by
  induction fields generalizing lo with
  | nil =>
    have hlo : lo = 32 := beq_iff_eq.1 h
    simp [joined, hlo, Nat.div_eq_of_lt w.isLt]
  | cons f rest ih =>
    obtain ⟨rfl, hle, hrest⟩ := tile_cons h
    obtain ⟨hf, hfit⟩ := List.forall_mem_cons.1 hfit
    have hnext : w.toNat / 2 ^ f.lo / 2 ^ (f.hi + 1 - f.lo) = w.toNat / 2 ^ (f.hi + 1) := by
      rw [Nat.div_div_eq_div_mul, ← pow_add]
      congr 2
      omega
    rw [hasFields_cons, ← ih hrest hfit, joined, field, ← hnext, eq_comm (a := joined rest), and_comm,
      Nat.div_mod_unique (Nat.two_pow_pos _), and_iff_left hf]

/-- A word is its fields: it is the word that fields covering it make exactly when it has each of them. -/
theorem ofNat_eq_iff_hasFields {n : Nat} (fields : List BitField) (hn : n = joined fields)
    (h : tile 0 fields = true) (hfit : Fit fields) : BitVec.ofNat 32 n = w ↔ HasFields w fields := by
  have hlt : n < 2 ^ 32 := hn ▸ joined_lt h hfit
  rw [← joined_eq_iff h hfit, pow_zero, Nat.div_one, ← hn, ← BitVec.toNat_inj, BitVec.toNat_ofNat,
    Nat.mod_eq_of_lt hlt]

/-! ### Operand fields -/

@[simp] theorem Size.toField_lt (size : Size) : size.toField < 4 := by cases size <;> decide

@[simp] theorem Lanes.toField_lt (lanes : Lanes) : lanes.toField < 4 := by cases lanes <;> decide

@[simp] theorem Size.ofField_toField (size : Size) : Size.ofField size.toField = size := by cases size <;> rfl

@[simp] theorem Lanes.ofField_toField (lanes : Lanes) : Lanes.ofField lanes.toField = lanes := by cases lanes <;> rfl

theorem Size.toField_ofField {n : Nat} (h : n < 4) : (Size.ofField n).toField = n := by interval_cases n <;> rfl

theorem Lanes.toField_ofField {n : Nat} (h : n < 4) : (Lanes.ofField n).toField = n := by interval_cases n <;> rfl

/-- A two-bit field holds the field value of the Size read from it. -/
@[simp] theorem Size.toField_ofField_field (w : Word) {hi lo : Nat} (h : hi + 1 - lo ≤ 2) :
    (Size.ofField (field w hi lo)).toField = field w hi lo :=
  Size.toField_ofField ((field_lt w hi lo).trans_le (Nat.pow_le_pow_right (by decide) h))

/-- A two-bit field holds the field value of the lanes read from it. -/
@[simp] theorem Lanes.toField_ofField_field (w : Word) {hi lo : Nat} (h : hi + 1 - lo ≤ 2) :
    (Lanes.ofField (field w hi lo)).toField = field w hi lo :=
  Lanes.toField_ofField ((field_lt w hi lo).trans_le (Nat.pow_le_pow_right (by decide) h))

/-- A one-bit field names a short size (30_encoding.md R122). -/
theorem Size.isShort_ofField (w : Word) (k : Nat) : (Size.ofField (field w k k)).isShort = true := by
  have h := field_lt w k k
  rw [Nat.add_sub_cancel_left] at h
  interval_cases field w k k <;> rfl

@[simp] theorem reg6_val (w : Word) {hi lo : Nat} (h : hi + 1 - lo = 6) : (reg6 w hi lo).val = field w hi lo :=
  Nat.mod_eq_of_lt ((field_lt w hi lo).trans_eq (by rw [h]; rfl))

@[simp] theorem reg7_val (w : Word) {hi lo : Nat} (h : hi + 1 - lo = 7) : (reg7 w hi lo).val = field w hi lo :=
  Nat.mod_eq_of_lt ((field_lt w hi lo).trans_eq (by rw [h]; rfl))

@[simp] theorem reg5_val (w : Word) {hi lo : Nat} (h : hi + 1 - lo = 5) : (reg5 w hi lo).val = field w hi lo :=
  Nat.mod_eq_of_lt ((field_lt w hi lo).trans_eq (by rw [h]; rfl))

@[simp] theorem imm_toNat (w : Word) {n hi lo : Nat} (h : hi + 1 - lo = n) : (imm n w hi lo).toNat = field w hi lo :=
  Nat.mod_eq_of_lt ((field_lt w hi lo).trans_eq (by rw [h]))

@[simp] theorem bit_toNat (w : Word) (k : Nat) : (bit w k).toNat = field w k k := by
  have h := field_lt w k k
  rw [Nat.add_sub_cancel_left] at h
  unfold bit
  interval_cases field w k k <;> rfl

/-- A shortened register field names the register at its distance from the first (10_state.md R23). -/
theorem regBased_val (w : Word) {first hi lo : Nat} (h : first + 2 ^ (hi + 1 - lo) ≤ 64) :
    (regBased first w hi lo).val = first + field w hi lo :=
  Nat.mod_eq_of_lt ((Nat.add_lt_add_left (field_lt w hi lo) first).trans_le h)

@[simp] theorem regBased_val_sub (w : Word) {first hi lo : Nat} (h : first + 2 ^ (hi + 1 - lo) ≤ 64) :
    (regBased first w hi lo).val - first = field w hi lo := by
  rw [regBased_val w h, Nat.add_sub_cancel_left]

/-- A shortened register field with a register's distance from the first names that register. -/
theorem regBased_eq {first hi lo : Nat} {r : Reg} (hr : first ≤ r.val) (h : field w hi lo = r.val - first) :
    regBased first w hi lo = r := by
  rw [regBased, h, Nat.add_sub_cancel' hr]
  exact Fin.ofNat_val_eq_self r

end Sys2Proof
end

section
/-! SUPPORT. The formats: each encoder makes the word with the fields of its format table, the lowest field first
(30_encoding.md R110 to R147). -/

namespace Sys2Proof

variable {w : Word}

/-! ### BRU -/

theorem encCmp_iff {left right : Reg} {size : Size} :
    BitVec.ofNat 32 (encCmp left right size.toField) = w ↔
      HasFields w [⟨1, 0, 0⟩, ⟨3, 2, 0⟩, ⟨5, 4, 0⟩, ⟨7, 6, 0⟩, ⟨9, 8, size.toField⟩, ⟨19, 10, 0⟩, ⟨25, 20, right⟩,
        ⟨31, 26, left⟩] :=
  ofNat_eq_iff_hasFields _ (by simp only [encCmp, joined]; omega) rfl (by simp [Fit])

theorem encode_cmpi_iff {left : Reg} {imm : BitVec 20} {size : Size} :
    encode (.cmpi left imm size) = w ↔
      HasFields w [⟨1, 0, 0⟩, ⟨3, 2, 1⟩, ⟨5, 4, size.toField⟩, ⟨25, 6, imm.toNat⟩, ⟨31, 26, left⟩] :=
  ofNat_eq_iff_hasFields _ (by simp only [encodeNat, joined]; omega) rfl (by simp [Fit]; omega)

theorem encode_fcmp_iff {left right : FReg} :
    encode (.fcmp left right) = w ↔
      HasFields w [⟨1, 0, 0⟩, ⟨3, 2, 0⟩, ⟨5, 4, 1⟩, ⟨17, 6, 0⟩, ⟨24, 18, right⟩, ⟨31, 25, left⟩] :=
  ofNat_eq_iff_hasFields _ (by simp only [encodeNat, joined]; omega) rfl (by simp [Fit])

theorem encode_fcmpi_iff {left : FReg} {imm : BitVec 21} :
    encode (.fcmpi left imm) = w ↔
      HasFields w [⟨1, 0, 0⟩, ⟨3, 2, 2⟩, ⟨24, 4, imm.toNat⟩, ⟨31, 25, left⟩] :=
  ofNat_eq_iff_hasFields _ (by simp only [encodeNat, joined]; omega) rfl (by simp [Fit]; omega)

theorem encode_dcmp_iff {left right : DReg} :
    encode (.dcmp left right) = w ↔
      HasFields w [⟨1, 0, 0⟩, ⟨3, 2, 0⟩, ⟨5, 4, 2⟩, ⟨19, 6, 0⟩, ⟨25, 20, right⟩, ⟨31, 26, left⟩] :=
  ofNat_eq_iff_hasFields _ (by simp only [encodeNat, joined]; omega) rfl (by simp [Fit])

theorem encode_dcmpi_iff {left : DReg} {imm : BitVec 22} :
    encode (.dcmpi left imm) = w ↔
      HasFields w [⟨1, 0, 0⟩, ⟨3, 2, 3⟩, ⟨25, 4, imm.toNat⟩, ⟨31, 26, left⟩] :=
  ofNat_eq_iff_hasFields _ (by simp only [encodeNat, joined]; omega) rfl (by simp [Fit]; omega)

theorem encBcc_iff {comparator : Nat} (hc : comparator < 16) {label : Label} :
    BitVec.ofNat 32 (encBcc comparator label) = w ↔
      HasFields w [⟨1, 0, 0⟩, ⟨3, 2, 0⟩, ⟨5, 4, 3⟩, ⟨7, 6, 0⟩, ⟨11, 8, comparator⟩, ⟨25, 12, label.toNat⟩,
        ⟨31, 26, 0⟩] :=
  ofNat_eq_iff_hasFields _ (by simp only [encBcc, joined]; omega) rfl (by simp [Fit, hc]; omega)

theorem encJmp_iff {subtype : Nat} (hs : subtype < 4) {label : Label} :
    BitVec.ofNat 32 (encJmp subtype label) = w ↔
      HasFields w [⟨1, 0, 0⟩, ⟨3, 2, 0⟩, ⟨5, 4, 3⟩, ⟨7, 6, 2⟩, ⟨9, 8, subtype⟩, ⟨11, 10, 0⟩, ⟨25, 12, label.toNat⟩,
        ⟨31, 26, 0⟩] :=
  ofNat_eq_iff_hasFields _ (by simp only [encJmp, joined]; omega) rfl (by simp [Fit, hs]; omega)

theorem encode_ret_iff :
    encode .ret = w ↔ HasFields w [⟨1, 0, 0⟩, ⟨3, 2, 0⟩, ⟨5, 4, 3⟩, ⟨7, 6, 3⟩, ⟨31, 8, 0⟩] :=
  ofNat_eq_iff_hasFields _ rfl rfl (by simp [Fit])

/-! ### LSU -/

theorem encLs_iff {type : Nat} (ht : type < 4) {store inc : Bool} {data base : Reg} {imm : BitVec 12} {size : Size} :
    BitVec.ofNat 32 (encLs type store data base imm size inc) = w ↔
      HasFields w [⟨1, 0, 1⟩, ⟨3, 2, type⟩, ⟨4, 4, inc.toNat⟩, ⟨5, 5, store.toNat⟩, ⟨7, 6, size.toField⟩,
        ⟨19, 8, imm.toNat⟩, ⟨25, 20, base⟩, ⟨31, 26, data⟩] :=
  ofNat_eq_iff_hasFields _ (by simp only [encLs, joined]; omega) rfl (by simp [Fit, Bool.toNat_le, ht]; omega)

theorem encLsx_iff {store source : Bool} {data : Reg} {imm : BitVec 16} {size : Size} :
    BitVec.ofNat 32 (encLsx store data source imm size) = w ↔
      HasFields w [⟨1, 0, 1⟩, ⟨3, 2, 1⟩, ⟨5, 4, 0⟩, ⟨6, 6, store.toNat⟩, ⟨8, 7, size.toField⟩, ⟨24, 9, imm.toNat⟩,
        ⟨25, 25, source.toNat⟩, ⟨31, 26, data⟩] :=
  ofNat_eq_iff_hasFields _ (by simp only [encLsx, joined]; omega) rfl (by simp [Fit, Bool.toNat_le]; omega)

theorem encIo_iff {store : Bool} {data : Reg} {addr : BitVec 8} {size : Size} :
    BitVec.ofNat 32 (encIo store data addr size) = w ↔
      HasFields w [⟨1, 0, 1⟩, ⟨3, 2, 1⟩, ⟨5, 4, 1⟩, ⟨6, 6, store.toNat⟩, ⟨8, 7, size.toField⟩, ⟨15, 9, 0⟩,
        ⟨23, 16, addr.toNat⟩, ⟨25, 24, 0⟩, ⟨31, 26, data⟩] :=
  ofNat_eq_iff_hasFields _ (by simp only [encIo, joined]; omega) rfl (by simp [Fit, Bool.toNat_le]; omega)

theorem encode_outi_iff {addr : BitVec 8} {imm : BitVec 16} {size : Size} (hs : size.isShort = true) :
    encode (.outi addr imm size) = w ↔
      HasFields w [⟨1, 0, 1⟩, ⟨3, 2, 1⟩, ⟨5, 4, 2⟩, ⟨6, 6, 0⟩, ⟨7, 7, size.toField⟩, ⟨23, 8, imm.toNat⟩,
        ⟨31, 24, addr.toNat⟩] :=
  have hlt : size.toField < 2 := by cases size <;> simp_all [Size.isShort, Size.toField]
  ofNat_eq_iff_hasFields _ (by simp only [encodeNat, joined]; omega) rfl (by simp [Fit, hlt]; omega)

theorem encLsv_iff {store cache inc : Bool} {data : VReg} {base : Reg} {imm : BitVec 15} :
    BitVec.ofNat 32 (encLsv store cache data base imm inc) = w ↔
      HasFields w [⟨1, 0, 1⟩, ⟨3, 2, 1⟩, ⟨5, 4, 3⟩, ⟨6, 6, store.toNat⟩, ⟨7, 7, cache.toNat⟩, ⟨8, 8, inc.toNat⟩,
        ⟨23, 9, imm.toNat⟩, ⟨26, 24, base.val - 56⟩, ⟨31, 27, data⟩] :=
  ofNat_eq_iff_hasFields _ (by simp only [encLsv, joined]; omega) rfl (by simp [Fit, Bool.toNat_le]; omega)

theorem encLsf_iff {store cache inc : Bool} {data : FReg} {base : Reg} {imm : BitVec 15} :
    BitVec.ofNat 32 (encLsf store cache data base imm inc) = w ↔
      HasFields w [⟨1, 0, 1⟩, ⟨3, 2, 3⟩, ⟨4, 4, 0⟩, ⟨5, 5, cache.toNat⟩, ⟨6, 6, store.toNat⟩, ⟨7, 7, inc.toNat⟩,
        ⟨22, 8, imm.toNat⟩, ⟨24, 23, base.val - 60⟩, ⟨31, 25, data⟩] :=
  ofNat_eq_iff_hasFields _ (by simp only [encLsf, joined]; omega) rfl (by simp [Fit, Bool.toNat_le]; omega)

theorem encLsd_iff {store cache inc : Bool} {data : DReg} {base : Reg} {imm : BitVec 16} :
    BitVec.ofNat 32 (encLsd store cache data base imm inc) = w ↔
      HasFields w [⟨1, 0, 1⟩, ⟨3, 2, 3⟩, ⟨4, 4, 1⟩, ⟨5, 5, cache.toNat⟩, ⟨6, 6, store.toNat⟩, ⟨7, 7, inc.toNat⟩,
        ⟨23, 8, imm.toNat⟩, ⟨25, 24, base.val - 60⟩, ⟨31, 26, data⟩] :=
  ofNat_eq_iff_hasFields _ (by simp only [encLsd, joined]; omega) rfl (by simp [Fit, Bool.toNat_le]; omega)

/-! ### ALU -/

theorem encRrr_iff {op : Nat} (hop : op < 16) {dst left right : Reg} {size : Size} :
    BitVec.ofNat 32 (encRrr op dst left right size) = w ↔
      HasFields w [⟨1, 0, 2⟩, ⟨3, 2, 0⟩, ⟨6, 4, 0⟩, ⟨7, 7, 0⟩, ⟨11, 8, op⟩, ⟨13, 12, size.toField⟩, ⟨19, 14, right⟩,
        ⟨25, 20, left⟩, ⟨31, 26, dst⟩] :=
  ofNat_eq_iff_hasFields _ (by simp only [encRrr, joined]; omega) rfl (by simp [Fit, hop])

theorem encRri_iff {op : Nat} (hop : op < 16) {dst left : Reg} {imm : BitVec 10} {size : Size} :
    BitVec.ofNat 32 (encRri op dst left imm size) = w ↔
      HasFields w [⟨1, 0, 2⟩, ⟨3, 2, 1⟩, ⟨7, 4, op⟩, ⟨9, 8, size.toField⟩, ⟨19, 10, imm.toNat⟩, ⟨25, 20, left⟩,
        ⟨31, 26, dst⟩] :=
  ofNat_eq_iff_hasFields _ (by simp only [encRri, joined]; omega) rfl (by simp [Fit, hop]; omega)

theorem encRi_iff {op : Nat} (hop : op < 16) {dst : Reg} {imm : BitVec 16} {size : Size} :
    BitVec.ofNat 32 (encRi op dst imm size) = w ↔
      HasFields w [⟨1, 0, 2⟩, ⟨3, 2, 2⟩, ⟨7, 4, op⟩, ⟨9, 8, size.toField⟩, ⟨25, 10, imm.toNat⟩, ⟨31, 26, dst⟩] :=
  ofNat_eq_iff_hasFields _ (by simp only [encRi, joined]; omega) rfl (by simp [Fit, hop]; omega)

theorem encode_movei_iff {dst : Reg} {imm : BitVec 22} :
    encode (.movei dst imm) = w ↔ HasFields w [⟨1, 0, 2⟩, ⟨3, 2, 3⟩, ⟨25, 4, imm.toNat⟩, ⟨31, 26, dst⟩] :=
  ofNat_eq_iff_hasFields _ (by simp only [encodeNat, joined]; omega) rfl (by simp [Fit]; omega)

theorem encode_xchg_iff : encode .xchg = w ↔ HasFields w [⟨1, 0, 2⟩, ⟨3, 2, 0⟩, ⟨6, 4, 2⟩, ⟨31, 7, 0⟩] :=
  ofNat_eq_iff_hasFields _ rfl rfl (by simp [Fit])

theorem encode_nop_iff {fin : Bool} :
    encode (.nop fin) = w ↔ HasFields w [⟨1, 0, 2⟩, ⟨3, 2, 0⟩, ⟨6, 4, 6⟩, ⟨7, 7, fin.toNat⟩, ⟨31, 8, 0⟩] :=
  ofNat_eq_iff_hasFields _ (by simp only [encodeNat, joined]; omega) rfl (by simp [Fit, Bool.toNat_le])

/-! ### AGU -/

theorem encDma_iff {store long : Bool} {ramReg dsReg : Reg} (hr : ramReg.val < 60) {ramBase dsBase : BitVec 12} :
    BitVec.ofNat 32 (encDma store ramReg dsReg ramBase dsBase long) = w ↔
      HasFields w [⟨1, 0, 0⟩, ⟨2, 2, 0⟩, ⟨3, 3, store.toNat⟩, ⟨4, 4, long.toNat⟩, ⟨6, 5, dsReg.val - 60⟩,
        ⟨7, 7, ramReg.val - 58⟩, ⟨19, 8, dsBase.toNat⟩, ⟨31, 20, ramBase.toNat⟩] :=
  ofNat_eq_iff_hasFields _ (by simp only [encDma, joined]; omega) rfl (by simp [Fit, Bool.toNat_le]; omega)

theorem encDmar_iff {type : Nat} (ht : type < 16) {store : Bool} {first ramReg : Reg} {blocks : BitVec 12} :
    BitVec.ofNat 32 (encDmar type store first ramReg blocks) = w ↔
      HasFields w [⟨1, 0, 0⟩, ⟨2, 2, 1⟩, ⟨3, 3, store.toNat⟩, ⟨7, 4, type⟩, ⟨19, 8, blocks.toNat⟩, ⟨25, 20, ramReg⟩,
        ⟨31, 26, first⟩] :=
  ofNat_eq_iff_hasFields _ (by simp only [encDmar, joined]; omega) rfl (by simp [Fit, Bool.toNat_le, ht]; omega)

theorem encode_wait_iff :
    encode .wait = w ↔ HasFields w [⟨1, 0, 0⟩, ⟨2, 2, 1⟩, ⟨3, 3, 0⟩, ⟨7, 4, 15⟩, ⟨31, 8, 0⟩] :=
  ofNat_eq_iff_hasFields _ rfl rfl (by simp [Fit])

/-! ### VFPU and VDIV -/

theorem encVv_iff {op : Nat} (hop : op < 4) {dst left right : VReg} {lanes : Lanes} :
    BitVec.ofNat 32 (encVv op dst left right lanes) = w ↔
      HasFields w [⟨1, 0, 3⟩, ⟨3, 2, 0⟩, ⟨5, 4, 0⟩, ⟨7, 6, lanes.toField⟩, ⟨9, 8, 0⟩, ⟨11, 10, op⟩, ⟨16, 12, 0⟩,
        ⟨21, 17, right⟩, ⟨26, 22, left⟩, ⟨31, 27, dst⟩] :=
  ofNat_eq_iff_hasFields _ (by simp only [encVv, joined]; omega) rfl (by simp [Fit, hop])

theorem encVf_iff {category op top : Nat} (hc : category < 4) (hop : op < 4) (ht : top < 32) {vec : VReg}
    {float : FReg} {lanes : Lanes} :
    BitVec.ofNat 32 (encVf category op top vec float lanes) = w ↔
      HasFields w [⟨1, 0, 3⟩, ⟨3, 2, 0⟩, ⟨5, 4, 0⟩, ⟨7, 6, lanes.toField⟩, ⟨9, 8, category⟩, ⟨11, 10, op⟩, ⟨14, 12, 0⟩,
        ⟨21, 15, float⟩, ⟨26, 22, vec⟩, ⟨31, 27, top⟩] :=
  ofNat_eq_iff_hasFields _ (by simp only [encVf, joined]; omega) rfl (by simp [Fit, hc, hop, ht])

theorem encDd_iff {op : Nat} (hop : op < 4) {dst left right : DReg} :
    BitVec.ofNat 32 (encDd op dst left right) = w ↔
      HasFields w [⟨1, 0, 3⟩, ⟨3, 2, 0⟩, ⟨5, 4, 0⟩, ⟨7, 6, op⟩, ⟨9, 8, 3⟩, ⟨13, 10, 0⟩, ⟨19, 14, right⟩, ⟨25, 20, left⟩,
        ⟨31, 26, dst⟩] :=
  ofNat_eq_iff_hasFields _ (by simp only [encDd, joined]; omega) rfl (by simp [Fit, hop])

theorem encFcvt_iff {direction : Nat} (hd : direction < 2) {double : DReg} {float : FReg} :
    BitVec.ofNat 32 (encFcvt direction double float) = w ↔
      HasFields w [⟨1, 0, 3⟩, ⟨3, 2, 0⟩, ⟨5, 4, 2⟩, ⟨6, 6, direction⟩, ⟨18, 7, 0⟩, ⟨25, 19, float⟩,
        ⟨31, 26, double⟩] :=
  ofNat_eq_iff_hasFields _ (by simp only [encFcvt, joined]; omega) rfl (by simp [Fit, hd])

theorem encFix_iff {instruction : Nat} (hi : instruction < 8) {reg : Reg} {vec : VReg} {lanes : Lanes} :
    BitVec.ofNat 32 (encFix instruction reg vec lanes) = w ↔
      HasFields w [⟨1, 0, 3⟩, ⟨3, 2, 0⟩, ⟨5, 4, 3⟩, ⟨7, 6, lanes.toField⟩, ⟨9, 8, 0⟩, ⟨11, 10, 0⟩,
        ⟨14, 12, instruction⟩, ⟨20, 15, 0⟩, ⟨25, 21, vec⟩, ⟨31, 26, reg⟩] :=
  ofNat_eq_iff_hasFields _ (by simp only [encFix, joined]; omega) rfl (by simp [Fit, hi])

theorem encFi_iff {direction : Nat} (hd : direction < 2) {reg : Reg} {float : FReg} {size : Size} :
    BitVec.ofNat 32 (encFi direction reg float size) = w ↔
      HasFields w [⟨1, 0, 3⟩, ⟨3, 2, 0⟩, ⟨5, 4, 3⟩, ⟨7, 6, size.toField⟩, ⟨9, 8, 1⟩, ⟨10, 10, direction⟩, ⟨18, 11, 0⟩,
        ⟨25, 19, float⟩, ⟨31, 26, reg⟩] :=
  ofNat_eq_iff_hasFields _ (by simp only [encFi, joined]; omega) rfl (by simp [Fit, hd])

theorem encDi_iff {direction : Nat} (hd : direction < 2) {reg : Reg} {double : DReg} {size : Size} :
    BitVec.ofNat 32 (encDi direction reg double size) = w ↔
      HasFields w [⟨1, 0, 3⟩, ⟨3, 2, 0⟩, ⟨5, 4, 3⟩, ⟨7, 6, size.toField⟩, ⟨9, 8, 2⟩, ⟨10, 10, direction⟩, ⟨19, 11, 0⟩,
        ⟨25, 20, double⟩, ⟨31, 26, reg⟩] :=
  ofNat_eq_iff_hasFields _ (by simp only [encDi, joined]; omega) rfl (by simp [Fit, hd])

theorem encFdiv_iff {instruction : Nat} (hi : instruction < 2) {dst source1 source2 : FReg} :
    BitVec.ofNat 32 (encFdiv instruction dst source1 source2) = w ↔
      HasFields w [⟨1, 0, 3⟩, ⟨3, 2, 0⟩, ⟨5, 4, 3⟩, ⟨6, 6, instruction⟩, ⟨7, 7, 0⟩, ⟨9, 8, 3⟩, ⟨10, 10, 0⟩,
        ⟨17, 11, source1⟩, ⟨24, 18, source2⟩, ⟨31, 25, dst⟩] :=
  ofNat_eq_iff_hasFields _ (by simp only [encFdiv, joined]; omega) rfl (by simp [Fit, hi])

theorem encDdiv_iff {instruction : Nat} (hi : instruction < 2) {dst source1 source2 : DReg} :
    BitVec.ofNat 32 (encDdiv instruction dst source1 source2) = w ↔
      HasFields w [⟨1, 0, 3⟩, ⟨3, 2, 0⟩, ⟨5, 4, 3⟩, ⟨6, 6, instruction⟩, ⟨7, 7, 1⟩, ⟨9, 8, 3⟩, ⟨13, 10, 0⟩,
        ⟨19, 14, source1⟩, ⟨25, 20, source2⟩, ⟨31, 26, dst⟩] :=
  ofNat_eq_iff_hasFields _ (by simp only [encDdiv, joined]; omega) rfl (by simp [Fit, hi])

theorem encode_movefi_iff {dst : FReg} {imm : BitVec 21} :
    encode (.movefi dst imm) = w ↔ HasFields w [⟨1, 0, 3⟩, ⟨3, 2, 1⟩, ⟨24, 4, imm.toNat⟩, ⟨31, 25, dst⟩] :=
  ofNat_eq_iff_hasFields _ (by simp only [encodeNat, joined]; omega) rfl (by simp [Fit]; omega)

theorem encode_movedi_iff {dst : DReg} {imm : BitVec 22} :
    encode (.movedi dst imm) = w ↔ HasFields w [⟨1, 0, 3⟩, ⟨3, 2, 2⟩, ⟨25, 4, imm.toNat⟩, ⟨31, 26, dst⟩] :=
  ofNat_eq_iff_hasFields _ (by simp only [encodeNat, joined]; omega) rfl (by simp [Fit]; omega)

theorem encode_movevi_iff {dst : VReg} {imm : BitVec 23} :
    encode (.movevi dst imm) = w ↔ HasFields w [⟨1, 0, 3⟩, ⟨3, 2, 3⟩, ⟨26, 4, imm.toNat⟩, ⟨31, 27, dst⟩] :=
  ofNat_eq_iff_hasFields _ (by simp only [encodeNat, joined]; omega) rfl (by simp [Fit]; omega)

end Sys2Proof
end

section
/-! SUPPORT. Decoding undoes encoding, unit by unit (30_encoding.md R500 to R504). -/

namespace Sys2Proof

variable {i : Instr} {w : Word}

/-- The two slots that have more units than the ALU. -/
theorem slot_lt_two : ∀ k : Slot, k.val < 2 → k = 0 ∨ k = 1 := by decide

/-- The slot and the Compute Unit field choose the unit (30_encoding.md R101, R102). -/
theorem decode_bru (h : field w 1 0 = 0) : decode 0 w = decodeBru w := by simp [decode, h]

theorem decode_agu (h : field w 1 0 = 0) : decode 1 w = decodeAgu w := by simp [decode, h]

theorem decode_lsu_zero (h : field w 1 0 = 1) : decode 0 w = checkSlot 0 .storeSlot (decodeLsu w) := by
  simp [decode, h]

theorem decode_lsu_one (h : field w 1 0 = 1) : decode 1 w = decodeLsu w := by simp [decode, h]

theorem decode_alu (k : Slot) (h : field w 1 0 = 2) : decode k w = checkSlot k .xchgSlot (decodeAlu w) := by
  match k with
  | 0 | 1 | 2 | 3 => simp [decode, h]

theorem decode_vfpu {k : Slot} (hk : k.val < 2) (h : field w 1 0 = 3) : decode k w = decodeVfpu k w := by
  match k with
  | 0 | 1 => simp [decode, h]

/-- A slot's check lets a legal instruction pass. -/
theorem checkSlot_legal {k : Slot} (e : DecodeError) (h : i.legalIn k = true) : checkSlot k e (.ok i) = .ok i := by
  simp [checkSlot, h]

/-- The Compute Unit field of an encoding is that of the instruction's class (30_encoding.md R100). -/
theorem field_encode (h : encode i = w) : field w 1 0 = Laws.unitOf i.issueClass := by
  have hunit : encodeNat i % 4 = Laws.unitOf i.issueClass := Laws.ComputeUnit.holds i
  subst h
  simp only [field, encode, BitVec.toNat_ofNat]
  omega

/-! ### The units

Each format's fields are what its branch of the decode tree reads. -/

theorem decodeBru_encode (hw : encode i = w) (hc : i.issueClass = .bru) : decodeBru w = .ok i := by
  cases i with
  | cmp left right size =>
    have h := encCmp_iff.1 hw
    simp only [hasFields_cons] at h
    simp [decodeBru, whenZero, reg6, h]
  | cmpi left imm size =>
    have h := encode_cmpi_iff.1 hw
    simp only [hasFields_cons] at h
    simp [decodeBru, reg6, Sys2Proof.imm, h]
  | fcmp left right =>
    have h := encode_fcmp_iff.1 hw
    simp only [hasFields_cons] at h
    simp [decodeBru, whenZero, reg7, h]
  | fcmpi left imm =>
    have h := encode_fcmpi_iff.1 hw
    simp only [hasFields_cons] at h
    simp [decodeBru, reg7, Sys2Proof.imm, h]
  | dcmp left right =>
    have h := encode_dcmp_iff.1 hw
    simp only [hasFields_cons] at h
    simp [decodeBru, whenZero, reg6, h]
  | dcmpi left imm =>
    have h := encode_dcmpi_iff.1 hw
    simp only [hasFields_cons] at h
    simp [decodeBru, reg6, Sys2Proof.imm, h]
  | bne label | beq label | bl label | ble label | bg label | bge label | bls label | bles label | bgs label
  | bges label =>
    have h := (encBcc_iff (by decide)).1 hw
    simp only [hasFields_cons] at h
    simp [decodeBru, decodeBranch, whenZero, imm, h]
  | call label | jmp label | callr label | jmpr label =>
    have h := (encJmp_iff (by decide)).1 hw
    simp only [hasFields_cons] at h
    simp [decodeBru, decodeJump, whenZero, imm, h]
  | ret =>
    have h := encode_ret_iff.1 hw
    simp only [hasFields_cons] at h
    simp [decodeBru, whenZero, h]
  | _ => simp [Instr.issueClass] at hc

theorem decodeLsu_encode (hw : encode i = w) (hwf : i.wf = true) (hc : i.issueClass = .load ∨ i.issueClass = .store) :
    decodeLsu w = .ok i := by
  cases i with
  | ldm | stm | ldc | stc =>
    have h := (encLs_iff (by decide)).1 hw
    simp only [hasFields_cons] at h
    simp [decodeLsu, bit, reg6, imm, h]
  | ldmx | stmx =>
    have h := encLsx_iff.1 hw
    simp only [hasFields_cons] at h
    simp [decodeLsu, bit, reg6, imm, h]
  | inp | out =>
    have h := encIo_iff.1 hw
    simp only [hasFields_cons] at h
    simp [decodeLsu, bit, whenZero, reg6, imm, h]
  | outi addr imm size =>
    have h := (encode_outi_iff hwf).1 hw
    simp only [hasFields_cons] at h
    simp [decodeLsu, whenZero, Sys2Proof.imm, h]
  | ldmv data base | stmv data base | ldcv data base | stcv data base =>
    have h := encLsv_iff.1 hw
    simp only [hasFields_cons] at h
    have hb : regBased 56 w 26 24 = base := regBased_eq (by simpa [Instr.wf, Reg.inBase56] using hwf) (by simp [h])
    simp [decodeLsu, bit, reg5, imm, h, hb]
  | ldmf data base | stmf data base | ldcf data base | stcf data base =>
    have h := encLsf_iff.1 hw
    simp only [hasFields_cons] at h
    have hb : regBased 60 w 24 23 = base := regBased_eq (by simpa [Instr.wf, Reg.inBase60] using hwf) (by simp [h])
    simp [decodeLsu, bit, reg7, imm, h, hb]
  | ldmd data base | stmd data base | ldcd data base | stcd data base =>
    have h := encLsd_iff.1 hw
    simp only [hasFields_cons] at h
    have hb : regBased 60 w 25 24 = base := regBased_eq (by simpa [Instr.wf, Reg.inBase60] using hwf) (by simp [h])
    simp [decodeLsu, bit, reg6, imm, h, hb]
  | _ => simp [Instr.issueClass] at hc

theorem decodeAlu_encode (hw : encode i = w) (hc : i.issueClass = .alu ∨ i.issueClass = .xchg) :
    decodeAlu w = .ok i := by
  cases i with
  | add | sub | muls | mulu | divs | divu | and | or | xor | asl | lsl | asr | lsr =>
    have h := (encRrr_iff (by decide)).1 hw
    simp only [hasFields_cons] at h
    simp [decodeAlu, decodeRrr, whenZero, reg6, h]
  | addi | subi | mulsi | mului | divsi | divui | andi | ori | xori | asli | lsli | asri | lsri =>
    have h := (encRri_iff (by decide)).1 hw
    simp only [hasFields_cons] at h
    simp [decodeAlu, decodeRri, reg6, imm, h]
  | addq | subq | mulsq | muluq | divsq | divuq | andq | orq | xorq | aslq | lslq | asrq | lsrq =>
    have h := (encRi_iff (by decide)).1 hw
    simp only [hasFields_cons] at h
    simp [decodeAlu, decodeRi, reg6, imm, h]
  | movei =>
    have h := encode_movei_iff.1 hw
    simp only [hasFields_cons] at h
    simp [decodeAlu, reg6, imm, h]
  | xchg =>
    have h := encode_xchg_iff.1 hw
    simp only [hasFields_cons] at h
    simp [decodeAlu, whenZero, h]
  | nop =>
    have h := encode_nop_iff.1 hw
    simp only [hasFields_cons] at h
    simp [decodeAlu, whenZero, bit, h]
  | _ => simp [Instr.issueClass] at hc

theorem decodeAgu_encode (hw : encode i = w) (hwf : i.wf = true) (hc : i.issueClass = .agu) : decodeAgu w = .ok i := by
  cases i with
  | lddma ramReg dsReg | stdma ramReg dsReg =>
    simp only [Instr.wf, Reg.inBase58, Reg.inBase60, Bool.and_eq_true, Bool.or_eq_true, beq_iff_eq,
      decide_eq_true_eq] at hwf
    obtain ⟨hram, hds⟩ := hwf
    have h := (encDma_iff (by omega)).1 hw
    simp only [hasFields_cons] at h
    have hr : regBased 58 w 7 7 = ramReg := regBased_eq (by omega) (by simp [h])
    have hd : regBased 60 w 6 5 = dsReg := regBased_eq hds (by simp [h])
    simp [decodeAgu, bit, imm, h, hr, hd]
  | lddmar | stdmar | dmair =>
    have h := (encDmar_iff (by decide)).1 hw
    simp only [hasFields_cons] at h
    simp [decodeAgu, bit, reg6, imm, h]
  | wait =>
    have h := encode_wait_iff.1 hw
    simp only [hasFields_cons] at h
    simp [decodeAgu, bit, whenZero, h]
  | _ => simp [Instr.issueClass] at hc

theorem decodeVfpu_encode (hw : encode i = w) {k : Slot} (hc : i.issueClass = .vfpu ∨ i.issueClass = .vdiv ∧ k = 0) :
    decodeVfpu k w = .ok i := by
  cases i with
  | faddVv | fsubVv | fmulVv | fmuladdVv =>
    have h := (encVv_iff (by decide)).1 hw
    simp only [hasFields_cons] at h
    simp [decodeVfpu, decodeVfpuArith, whenZero, reg5, h]
  | faddVf dst | fsubVf dst | fmulVf dst | fmuladdVf dst | fmuladdvao dst =>
    have h := (encVf_iff (by decide) (by decide) dst.isLt).1 hw
    simp only [hasFields_cons] at h
    simp [decodeVfpu, decodeVfpuArith, whenZero, reg5, reg7, h]
  | fmulva | fmuladdva =>
    have h := (encVf_iff (by decide) (by decide) (by decide)).1 hw
    simp only [hasFields_cons] at h
    simp [decodeVfpu, decodeVfpuArith, whenZero, reg5, reg7, h]
  | fipr dst vec1 vec2 =>
    have h := (encVf_iff (by decide) (by decide) vec2.isLt).1 hw
    simp only [hasFields_cons] at h
    simp [decodeVfpu, decodeVfpuArith, whenZero, reg5, reg7, h]
  | faddD | fsubD | fmulD | fmuladdD =>
    have h := (encDd_iff (by decide)).1 hw
    simp only [hasFields_cons] at h
    simp [decodeVfpu, decodeVfpuArith, whenZero, reg6, h]
  | cvtF2d | cvtD2f =>
    have h := (encFcvt_iff (by decide)).1 hw
    simp only [hasFields_cons] at h
    simp [decodeVfpu, bit, whenZero, reg6, reg7, h]
  | itof0 | itof4 | itof8 | itof15 | ftoi0 | ftoi4 | ftoi8 | ftoi15 =>
    have h := (encFix_iff (by decide)).1 hw
    simp only [hasFields_cons] at h
    simp [decodeVfpu, decodeFix, whenZero, reg5, reg6, h]
  | cvtI2f | cvtF2i =>
    have h := (encFi_iff (by decide)).1 hw
    simp only [hasFields_cons] at h
    simp [decodeVfpu, bit, whenZero, reg6, reg7, h]
  | cvtI2d | cvtD2i =>
    have h := (encDi_iff (by decide)).1 hw
    simp only [hasFields_cons] at h
    simp [decodeVfpu, bit, whenZero, reg6, h]
  | fdiv | fsqrt =>
    have h := (encFdiv_iff (by decide)).1 hw
    have hk : k = 0 := by simpa [Instr.issueClass] using hc
    simp only [hasFields_cons] at h
    simp [decodeVfpu, decodeVdiv, bit, whenZero, reg7, h, hk]
  | ddiv | dsqrt =>
    have h := (encDdiv_iff (by decide)).1 hw
    have hk : k = 0 := by simpa [Instr.issueClass] using hc
    simp only [hasFields_cons] at h
    simp [decodeVfpu, decodeVdiv, bit, whenZero, reg6, h, hk]
  | movefi =>
    have h := encode_movefi_iff.1 hw
    simp only [hasFields_cons] at h
    simp [decodeVfpu, reg7, imm, h]
  | movedi =>
    have h := encode_movedi_iff.1 hw
    simp only [hasFields_cons] at h
    simp [decodeVfpu, reg6, imm, h]
  | movevi =>
    have h := encode_movevi_iff.1 hw
    simp only [hasFields_cons] at h
    simp [decodeVfpu, reg5, imm, h]
  | _ => simp [Instr.issueClass] at hc

end Sys2Proof

open Sys2Proof Sys2Proof.Machine

/-- Settles O1: the unit that the slot and the Compute Unit field choose decodes the word it encodes. -/
theorem encodeThenDecode : Obligations.EncodeThenDecode := by
  intro i k hwf hlegal
  have hunit := field_encode (i := i) rfl
  have hslot : i.issueClass.legalIn k = true := hlegal
  cases hc : i.issueClass <;> rw [hc] at hunit hslot
  case bru =>
    obtain rfl : k = 0 := by simpa [IssueClass.legalIn] using hslot
    rw [decode_bru hunit, decodeBru_encode rfl hc]
  case load =>
    have hdecode := decodeLsu_encode rfl hwf (.inl hc)
    obtain rfl | rfl := slot_lt_two k (by simpa [IssueClass.legalIn] using hslot)
    · rw [decode_lsu_zero hunit, hdecode, checkSlot_legal _ hlegal]
    · rw [decode_lsu_one hunit, hdecode]
  case store =>
    obtain rfl : k = 1 := by simpa [IssueClass.legalIn] using hslot
    rw [decode_lsu_one hunit, decodeLsu_encode rfl hwf (.inr hc)]
  case xchg => rw [decode_alu k hunit, decodeAlu_encode rfl (.inr hc), checkSlot_legal _ hlegal]
  case alu => rw [decode_alu k hunit, decodeAlu_encode rfl (.inl hc), checkSlot_legal _ hlegal]
  case agu =>
    obtain rfl : k = 1 := by simpa [IssueClass.legalIn] using hslot
    rw [decode_agu hunit, decodeAgu_encode rfl hwf hc]
  case vfpu =>
    have hk : k.val < 2 := by simpa [IssueClass.legalIn] using hslot
    rw [decode_vfpu hk hunit, decodeVfpu_encode rfl (.inl hc)]
  case vdiv =>
    obtain rfl : k = 0 := by simpa [IssueClass.legalIn] using hslot
    rw [decode_vfpu (by decide) hunit, decodeVfpu_encode rfl (.inr ⟨hc, rfl⟩)]
end

section
/-! SUPPORT. Encoding undoes decoding, unit by unit: what a word decodes to is an instruction that the encoder writes
with the fields of the word (30_encoding.md R500 to R504). -/

namespace Sys2Proof

open Machine

variable {i : Instr} {w : Word}

/-! ### Readings of a word -/

/-- The instruction is one whose encoding can name its operands, and the word is its encoding, but for the bits that it
ignores (30_encoding.md R137). -/
def Instr.Reads (i : Instr) (w : Word) : Prop :=
  i.wf = true ∧ if Instr.writesAcc i = true then encode i = w &&& 0x07FFFFFF#32 else encode i = w

/-- The instruction is well-formed, ignores no bit of its word, and its encoding is the number. -/
def Instr.MadeBy (i : Instr) (n : Nat) : Prop := i.wf = true ∧ Instr.writesAcc i = false ∧ encodeNat i = n

theorem Instr.Reads.of_encode (hwf : i.wf = true) (hacc : Instr.writesAcc i = false) (h : encode i = w) : i.Reads w :=
  ⟨hwf, by simpa [hacc] using h⟩

theorem Instr.MadeBy.reads {n : Nat} (h : i.MadeBy n) (hn : BitVec.ofNat 32 n = w) : i.Reads w := by
  obtain ⟨hwf, hacc, rfl⟩ := h
  exact .of_encode hwf hacc hn

theorem whenZero_ok {reserved : Nat} {j : Instr} : whenZero reserved j = .ok i ↔ reserved = 0 ∧ j = i := by
  unfold whenZero
  split <;> simp [*]

/-- The values of a field of two bits. -/
theorem field_two_bits (w : Word) (hi lo : Nat) (h : hi + 1 - lo = 2 := by rfl) :
    field w hi lo = 0 ∨ field w hi lo = 1 ∨ field w hi lo = 2 ∨ field w hi lo = 3 := by
  have hlt := field_lt w hi lo
  rw [h] at hlt
  omega

theorem field_of_bit {k : Nat} {b : Bool} (h : bit w k = b) : field w k k = b.toNat := by rw [← h, bit_toNat]

theorem regBased_inBase56 (w : Word) {hi lo : Nat} (h : hi + 1 - lo = 3) : (regBased 56 w hi lo).inBase56 = true := by
  rw [Reg.inBase56, regBased_val w (by rw [h]; decide)]
  simp

theorem regBased_inBase60 (w : Word) {hi lo : Nat} (h : hi + 1 - lo = 2) : (regBased 60 w hi lo).inBase60 = true := by
  rw [Reg.inBase60, regBased_val w (by rw [h]; decide)]
  simp

theorem regBased_inBase58 (w : Word) (k : Nat) : (regBased 58 w k k).inBase58 = true := by
  have hlt := field_lt w k k
  rw [Nat.add_sub_cancel_left] at hlt
  rw [Reg.inBase58, regBased_val w (by rw [Nat.add_sub_cancel_left]; decide)]
  interval_cases field w k k <;> rfl

/-! ### BRU -/

/-- The comparator chooses the branch. -/
theorem decodeBranch_ok (h : decodeBranch w = .ok i) :
    field w 31 26 = 0 ∧ i.MadeBy (encBcc (field w 11 8) (imm 14 w 25 12)) := by
  unfold decodeBranch at h
  split at h
  case h_11 => cases h
  all_goals
    rename_i hc
    obtain ⟨h0, rfl⟩ := whenZero_ok.1 h
    exact ⟨h0, rfl, rfl, by rw [hc]; rfl⟩

/-- The subtype chooses the jump. -/
theorem decodeJump_ok (h : decodeJump w = .ok i) :
    field w 31 26 + field w 11 10 = 0 ∧ i.MadeBy (encJmp (field w 9 8) (imm 14 w 25 12)) := by
  obtain hs | hs | hs | hs := field_two_bits w 9 8
  all_goals
    simp only [decodeJump, hs] at h
    obtain ⟨h0, rfl⟩ := whenZero_ok.1 h
    exact ⟨h0, rfl, rfl, by rw [hs]; rfl⟩

theorem decodeBru_reads (hu : field w 1 0 = 0) (h : decodeBru w = .ok i) : i.Reads w := by
  obtain ht | ht | ht | ht := field_two_bits w 3 2 <;> simp only [decodeBru, ht] at h
  · obtain hc | hc | hc | hc := field_two_bits w 5 4 <;> simp only [hc] at h
    · obtain ⟨h0, rfl⟩ := whenZero_ok.1 h
      exact .of_encode rfl rfl (encCmp_iff.2 (by simp [hu, ht, hc, Nat.add_eq_zero_iff.1 h0]))
    · obtain ⟨h0, rfl⟩ := whenZero_ok.1 h
      exact .of_encode rfl rfl (encode_fcmp_iff.2 (by simp [hu, ht, hc, h0]))
    · obtain ⟨h0, rfl⟩ := whenZero_ok.1 h
      exact .of_encode rfl rfl (encode_dcmp_iff.2 (by simp [hu, ht, hc, h0]))
    · obtain hb | hb | hb | hb := field_two_bits w 7 6 <;> simp only [hb] at h
      · obtain ⟨h0, hi⟩ := decodeBranch_ok h
        exact hi.reads ((encBcc_iff (field_lt w 11 8)).2 (by simp [hu, ht, hc, hb, h0]))
      · cases h
      · obtain ⟨h0, hi⟩ := decodeJump_ok h
        exact hi.reads ((encJmp_iff (field_lt w 9 8)).2 (by simp [hu, ht, hc, hb, Nat.add_eq_zero_iff.1 h0]))
      · obtain ⟨h0, rfl⟩ := whenZero_ok.1 h
        exact .of_encode rfl rfl (encode_ret_iff.2 (by simp [hu, ht, hc, hb, h0]))
  · cases h
    exact .of_encode rfl rfl (encode_cmpi_iff.2 (by simp [hu, ht]))
  · cases h
    exact .of_encode rfl rfl (encode_fcmpi_iff.2 (by simp [hu, ht]))
  · cases h
    exact .of_encode rfl rfl (encode_dcmpi_iff.2 (by simp [hu, ht]))

/-! ### LSU -/

theorem decodeLsu_reads (hu : field w 1 0 = 1) (h : decodeLsu w = .ok i) : i.Reads w := by
  obtain ht | ht | ht | ht := field_two_bits w 3 2 <;> simp only [decodeLsu, ht] at h
  · have hi : i.MadeBy (encLs 0 (bit w 5) (reg6 w 31 26) (reg6 w 25 20) (imm 12 w 19 8) (.ofField (field w 7 6))
        (bit w 4)) := by
      cases hs : bit w 5 <;> simp only [hs] at h <;> cases h <;> exact ⟨rfl, rfl, rfl⟩
    exact hi.reads ((encLs_iff (by decide)).2 (by simp [hu, ht]))
  · obtain hg | hg | hg | hg := field_two_bits w 5 4 <;> simp only [hg] at h
    · have hi : i.MadeBy (encLsx (bit w 6) (reg6 w 31 26) (bit w 25) (imm 16 w 24 9) (.ofField (field w 8 7))) := by
        cases hs : bit w 6 <;> simp only [hs] at h <;> cases h <;> exact ⟨rfl, rfl, rfl⟩
      exact hi.reads (encLsx_iff.2 (by simp [hu, ht, hg]))
    · have hi : field w 25 24 + field w 15 9 = 0 ∧
          i.MadeBy (encIo (bit w 6) (reg6 w 31 26) (imm 8 w 23 16) (.ofField (field w 8 7))) := by
        cases hs : bit w 6 <;> simp only [hs] at h <;> obtain ⟨h0, rfl⟩ := whenZero_ok.1 h <;>
          exact ⟨h0, rfl, rfl, rfl⟩
      obtain ⟨h0, hi⟩ := hi
      exact hi.reads (encIo_iff.2 (by simp [hu, ht, hg, Nat.add_eq_zero_iff.1 h0]))
    · obtain ⟨h0, rfl⟩ := whenZero_ok.1 h
      have hshort := Size.isShort_ofField w 7
      exact .of_encode hshort rfl ((encode_outi_iff hshort).2 (by simp [hu, ht, hg, h0]))
    · have hi : i.MadeBy (encLsv (bit w 6) (bit w 7) (reg5 w 31 27) (regBased 56 w 26 24) (imm 15 w 23 9)
          (bit w 8)) := by
        cases hc : bit w 7 <;> cases hs : bit w 6 <;> simp only [hc, hs] at h <;> cases h <;>
          exact ⟨regBased_inBase56 w rfl, rfl, rfl⟩
      exact hi.reads (encLsv_iff.2 (by simp [hu, ht, hg]))
  · have hi : i.MadeBy (encLs 2 (bit w 5) (reg6 w 31 26) (reg6 w 25 20) (imm 12 w 19 8) (.ofField (field w 7 6))
        (bit w 4)) := by
      cases hs : bit w 5 <;> simp only [hs] at h <;> cases h <;> exact ⟨rfl, rfl, rfl⟩
    exact hi.reads ((encLs_iff (by decide)).2 (by simp [hu, ht]))
  · cases hd : bit w 4 <;> simp only [hd] at h
    · have hi : i.MadeBy (encLsf (bit w 6) (bit w 5) (reg7 w 31 25) (regBased 60 w 24 23) (imm 15 w 22 8)
          (bit w 7)) := by
        cases hc : bit w 5 <;> cases hs : bit w 6 <;> simp only [hc, hs] at h <;> cases h <;>
          exact ⟨regBased_inBase60 w rfl, rfl, rfl⟩
      exact hi.reads (encLsf_iff.2 (by simp [hu, ht, field_of_bit hd]))
    · have hi : i.MadeBy (encLsd (bit w 6) (bit w 5) (reg6 w 31 26) (regBased 60 w 25 24) (imm 16 w 23 8)
          (bit w 7)) := by
        cases hc : bit w 5 <;> cases hs : bit w 6 <;> simp only [hc, hs] at h <;> cases h <;>
          exact ⟨regBased_inBase60 w rfl, rfl, rfl⟩
      exact hi.reads (encLsd_iff.2 (by simp [hu, ht, field_of_bit hd]))

/-! ### ALU -/

/-- The operation field chooses the operation. -/
theorem decodeRrr_ok (h : decodeRrr w = .ok i) :
    field w 7 7 = 0 ∧ i.MadeBy (encRrr (field w 11 8) (reg6 w 31 26) (reg6 w 25 20) (reg6 w 19 14)
      (.ofField (field w 13 12))) := by
  unfold decodeRrr at h
  split at h
  case h_14 => cases h
  all_goals
    rename_i hop
    obtain ⟨h0, rfl⟩ := whenZero_ok.1 h
    exact ⟨h0, rfl, rfl, by rw [hop]; rfl⟩

theorem decodeRri_ok (h : decodeRri w = .ok i) :
    i.MadeBy (encRri (field w 7 4) (reg6 w 31 26) (reg6 w 25 20) (imm 10 w 19 10) (.ofField (field w 9 8))) := by
  unfold decodeRri at h
  split at h
  case h_14 => cases h
  all_goals
    rename_i hop
    cases h
    exact ⟨rfl, rfl, by rw [hop]; rfl⟩

theorem decodeRi_ok (h : decodeRi w = .ok i) :
    i.MadeBy (encRi (field w 7 4) (reg6 w 31 26) (imm 16 w 25 10) (.ofField (field w 9 8))) := by
  unfold decodeRi at h
  split at h
  case h_14 => cases h
  all_goals
    rename_i hop
    cases h
    exact ⟨rfl, rfl, by rw [hop]; rfl⟩

theorem decodeAlu_reads (hu : field w 1 0 = 2) (h : decodeAlu w = .ok i) : i.Reads w := by
  obtain hc | hc | hc | hc := field_two_bits w 3 2 <;> simp only [decodeAlu, hc] at h
  · split at h <;> rename_i ht
    · obtain ⟨h0, hi⟩ := decodeRrr_ok h
      exact hi.reads ((encRrr_iff (field_lt w 11 8)).2 (by simp [hu, hc, ht, h0]))
    · obtain ⟨h0, rfl⟩ := whenZero_ok.1 h
      exact .of_encode rfl rfl (encode_xchg_iff.2 (by simp [hu, hc, ht, h0]))
    · obtain ⟨h0, rfl⟩ := whenZero_ok.1 h
      exact .of_encode rfl rfl (encode_nop_iff.2 (by simp [hu, hc, ht, h0]))
    · cases h
  · exact (decodeRri_ok h).reads ((encRri_iff (field_lt w 7 4)).2 (by simp [hu, hc]))
  · exact (decodeRi_ok h).reads ((encRi_iff (field_lt w 7 4)).2 (by simp [hu, hc]))
  · cases h
    exact .of_encode rfl rfl (encode_movei_iff.2 (by simp [hu, hc]))

/-! ### AGU -/

theorem decodeAgu_reads (hu : field w 1 0 = 0) (h : decodeAgu w = .ok i) : i.Reads w := by
  cases hl : bit w 2 <;> simp only [decodeAgu, hl] at h
  · have hi : i.MadeBy (encDma (bit w 3) (regBased 58 w 7 7) (regBased 60 w 6 5) (imm 12 w 31 20) (imm 12 w 19 8)
        (bit w 4)) := by
      cases hs : bit w 3 <;> simp only [hs] at h <;> cases h <;>
        exact ⟨by simp [Instr.wf, regBased_inBase58, regBased_inBase60], rfl, rfl⟩
    have hram : (regBased 58 w 7 7).val < 60 := by
      have hlt := field_lt w 7 7
      rw [regBased_val w (by decide)]
      omega
    exact hi.reads ((encDma_iff hram).2 (by simp [hu, field_of_bit hl]))
  · have hlist {type : Nat} (ht : field w 7 4 = type) {store : Bool} (hs : bit w 3 = store)
        (hi : i.MadeBy (encDmar type store (reg6 w 31 26) (reg6 w 25 20) (imm 12 w 19 8))) : i.Reads w :=
      hi.reads ((encDmar_iff (ht ▸ field_lt w 7 4)).2 (by simp [hu, field_of_bit hl, ht, field_of_bit hs]))
    split at h
    · split at h
      · split at h <;> cases h
        · exact hlist ‹_› ‹_› ⟨rfl, rfl, rfl⟩
        · exact hlist ‹_› (Bool.eq_false_iff.2 ‹_›) ⟨rfl, rfl, rfl⟩
      · split at h <;> cases h
        exact hlist ‹_› (Bool.eq_false_iff.2 ‹_›) ⟨rfl, rfl, rfl⟩
      · rename_i ht
        obtain ⟨h0, rfl⟩ := whenZero_ok.1 h
        exact .of_encode rfl rfl (encode_wait_iff.2 (by simp [hu, field_of_bit hl, ht, Nat.add_eq_zero_iff.1 h0]))
      · cases h
    · contradiction

/-! ### VFPU and VDIV -/

/-- The word without its five high bits, which FMULVA and FMULADDVA ignore (30_encoding.md R137). -/
theorem field_and_low (w : Word) {hi lo : Nat} (hlo : lo ≤ hi) (hhi : hi < 27) :
    field (w &&& 0x07FFFFFF#32) hi lo = field w hi lo := by
  have hmod : (w &&& 0x07FFFFFF#32).toNat = w.toNat % (2 ^ lo * 2 ^ (27 - lo)) := by
    rw [← pow_add, Nat.add_sub_cancel' (by omega), BitVec.toNat_and]
    exact Nat.and_two_pow_sub_one_eq_mod _ 27
  rw [field, field, hmod, Nat.mod_mul_right_div_self, Nat.mod_mod_of_dvd _ (pow_dvd_pow 2 (by omega))]

theorem field_and_high (w : Word) : field (w &&& 0x07FFFFFF#32) 31 27 = 0 := by
  have hlt : (w &&& 0x07FFFFFF#32).toNat < 2 ^ 27 := by
    rw [BitVec.toNat_and]
    exact Nat.and_lt_two_pow _ (by decide)
  rw [field, Nat.div_eq_of_lt hlt, Nat.zero_mod]

theorem Instr.Reads.of_encode_acc (hwf : i.wf = true) (hacc : Instr.writesAcc i = true)
    (h : encode i = w &&& 0x07FFFFFF#32) : i.Reads w :=
  ⟨hwf, by simpa [hacc] using h⟩

theorem decodeVfpuArith_reads (hu : field w 1 0 = 3) (ht : field w 3 2 = 0) (hs : field w 5 4 = 0)
    (h : decodeVfpuArith w = .ok i) : i.Reads w := by
  obtain hc | hc | hc | hc := field_two_bits w 9 8 <;> simp only [decodeVfpuArith, hc] at h
  · have hi : field w 16 12 = 0 ∧ i.MadeBy (encVv (field w 11 10) (reg5 w 31 27) (reg5 w 26 22) (reg5 w 21 17)
        (.ofField (field w 7 6))) := by
      obtain ho | ho | ho | ho := field_two_bits w 11 10
      all_goals
        simp only [ho] at h
        obtain ⟨h0, rfl⟩ := whenZero_ok.1 h
        exact ⟨h0, rfl, rfl, by rw [ho]; rfl⟩
    obtain ⟨h0, hi⟩ := hi
    exact hi.reads ((encVv_iff (field_lt w 11 10)).2 (by simp [hu, ht, hs, hc, h0]))
  · have hi : field w 14 12 = 0 ∧ i.MadeBy (encVf 1 (field w 11 10) (reg5 w 31 27).val (reg5 w 26 22) (reg7 w 21 15)
        (.ofField (field w 7 6))) := by
      obtain ho | ho | ho | ho := field_two_bits w 11 10
      all_goals
        simp only [ho] at h
        obtain ⟨h0, rfl⟩ := whenZero_ok.1 h
        exact ⟨h0, rfl, rfl, by rw [ho]; rfl⟩
    obtain ⟨h0, hi⟩ := hi
    exact hi.reads ((encVf_iff (by decide) (field_lt w 11 10) (Fin.isLt _)).2 (by simp [hu, ht, hs, hc, h0]))
  · obtain ho | ho | ho | ho := field_two_bits w 11 10 <;> simp only [ho] at h <;> obtain ⟨h0, rfl⟩ := whenZero_ok.1 h
    case inl | inr.inl =>
      exact .of_encode_acc rfl rfl ((encVf_iff (by decide) (by decide) (by decide)).2
        (by simp [field_and_low, field_and_high, hu, ht, hs, hc, ho, h0]))
    case inr.inr.inl | inr.inr.inr =>
      exact .of_encode rfl rfl ((encVf_iff (by decide) (by decide) (Fin.isLt _)).2
        (by simp [hu, ht, hs, hc, ho, h0]))
  · have hi : field w 13 10 = 0 ∧ i.MadeBy (encDd (field w 7 6) (reg6 w 31 26) (reg6 w 25 20) (reg6 w 19 14)) := by
      obtain ho | ho | ho | ho := field_two_bits w 7 6
      all_goals
        simp only [ho] at h
        obtain ⟨h0, rfl⟩ := whenZero_ok.1 h
        exact ⟨h0, rfl, rfl, by rw [ho]; rfl⟩
    obtain ⟨h0, hi⟩ := hi
    exact hi.reads ((encDd_iff (field_lt w 7 6)).2 (by simp [hu, ht, hs, hc, h0]))

theorem decodeFix_ok (h : decodeFix w = .ok i) :
    field w 20 15 + field w 11 10 = 0 ∧ i.MadeBy (encFix (field w 14 12) (reg6 w 31 26) (reg5 w 25 21)
      (.ofField (field w 7 6))) := by
  have hlt := field_lt w 14 12
  interval_cases ho : field w 14 12
  all_goals
    simp only [decodeFix, ho] at h
    obtain ⟨h0, rfl⟩ := whenZero_ok.1 h
    exact ⟨h0, rfl, rfl, rfl⟩

theorem decodeVdiv_reads {k : Slot} (hu : field w 1 0 = 3) (ht : field w 3 2 = 0) (hs : field w 5 4 = 3)
    (hc : field w 9 8 = 3) (h : decodeVdiv k w = .ok i) : i.Reads w := by
  unfold decodeVdiv at h
  split at h
  · cases h
  · cases hd : bit w 7 <;> cases hr : bit w 6 <;> simp only [hd, hr] at h <;> obtain ⟨h0, rfl⟩ := whenZero_ok.1 h
    case false.false | false.true =>
      exact .of_encode rfl rfl ((encFdiv_iff (by decide)).2
        (by simp [hu, ht, hs, hc, field_of_bit hd, field_of_bit hr, h0]))
    case true.false | true.true =>
      exact .of_encode rfl rfl ((encDdiv_iff (by decide)).2
        (by simp [hu, ht, hs, hc, field_of_bit hd, field_of_bit hr, h0]))

theorem decodeVfpu_reads {k : Slot} (hu : field w 1 0 = 3) (h : decodeVfpu k w = .ok i) : i.Reads w := by
  obtain ht | ht | ht | ht := field_two_bits w 3 2 <;> simp only [decodeVfpu, ht] at h
  · obtain hs | hs | hs | hs := field_two_bits w 5 4 <;> simp only [hs] at h
    · exact decodeVfpuArith_reads hu ht hs h
    · cases h
    · cases hd : bit w 6 <;> simp only [hd] at h <;> obtain ⟨h0, rfl⟩ := whenZero_ok.1 h <;>
        exact .of_encode rfl rfl ((encFcvt_iff (by decide)).2 (by simp [hu, ht, hs, field_of_bit hd, h0]))
    · obtain hc | hc | hc | hc := field_two_bits w 9 8 <;> simp only [hc] at h
      · obtain ⟨h0, hi⟩ := decodeFix_ok h
        exact hi.reads ((encFix_iff (field_lt w 14 12)).2 (by simp [hu, ht, hs, hc, Nat.add_eq_zero_iff.1 h0]))
      · cases hd : bit w 10 <;> simp only [hd] at h <;> obtain ⟨h0, rfl⟩ := whenZero_ok.1 h <;>
          exact .of_encode rfl rfl ((encFi_iff (by decide)).2 (by simp [hu, ht, hs, hc, field_of_bit hd, h0]))
      · cases hd : bit w 10 <;> simp only [hd] at h <;> obtain ⟨h0, rfl⟩ := whenZero_ok.1 h <;>
          exact .of_encode rfl rfl ((encDi_iff (by decide)).2 (by simp [hu, ht, hs, hc, field_of_bit hd, h0]))
      · exact decodeVdiv_reads hu ht hs hc h
  · cases h
    exact .of_encode rfl rfl (encode_movefi_iff.2 (by simp [hu, ht]))
  · cases h
    exact .of_encode rfl rfl (encode_movedi_iff.2 (by simp [hu, ht]))
  · cases h
    exact .of_encode rfl rfl (encode_movevi_iff.2 (by simp [hu, ht]))

end Sys2Proof

open Sys2Proof Sys2Proof.Machine

/-- Settles O2: the unit that decoded the word finds in it the fields that its encoder writes. -/
theorem decodedWordIsTheEncoding : Obligations.DecodedWordIsTheEncoding := by
  intro k w i h
  unfold decode at h
  split at h
  case h_1 hu => exact decodeBru_reads hu h
  case h_2 hu => exact decodeAgu_reads hu h
  case h_3 hu => exact decodeLsu_reads hu (checkSlot_ok h)
  case h_4 hu => exact decodeLsu_reads hu h
  case h_5 hu => exact decodeAlu_reads hu (checkSlot_ok h)
  case h_6 hu => exact decodeVfpu_reads hu h
  case h_7 hu => exact decodeVfpu_reads hu h
  case h_8 => cases h
end

section
/-! SUPPORT. The Illegal encodings, each found by the fields that the decode tree reads before it refuses the word
(30_encoding.md R149). -/

namespace Sys2Proof

variable {w : Word}

theorem checkSlot_error (k : Slot) (e e' : DecodeError) : checkSlot k e (.error e') = .error e' := rfl

/-- Slots 2 and 3 have only the ALU. -/
theorem decode_unitNotInSlot {k : Slot} (hk : 2 ≤ k.val) (hu : field w 1 0 ≠ 2) :
    decode k w = .error .unitNotInSlot := by
  unfold decode
  split
  case h_5 hu' => exact absurd hu' hu
  case h_8 => rfl
  all_goals exact absurd hk (by decide)

/-- The low bits of a conditional branch and of a jump. -/
theorem fields_of_bcc (h : field w 5 0 = 0x30) : field w 1 0 = 0 ∧ field w 3 2 = 0 ∧ field w 5 4 = 3 := by
  refine ⟨?_, ?_, ?_⟩ <;> rw [field_of_field w (hi := 5) (lo := 0) (by decide) (by decide) (by decide), h] <;> rfl

theorem decodeBru_bcc (h : field w 5 0 = 0x30) (hc : field w 7 6 = 0) : decode 0 w = decodeBranch w := by
  obtain ⟨hu, ht, hs⟩ := fields_of_bcc h
  simp [decode_bru hu, decodeBru, ht, hs, hc]

theorem decode_branchCategory (h : field w 5 0 = 0x30) (hc : field w 7 6 = 1) :
    decode 0 w = .error .branchCategory := by
  obtain ⟨hu, ht, hs⟩ := fields_of_bcc h
  simp [decode_bru hu, decodeBru, ht, hs, hc]

theorem decodeBranch_comparator (h : 10 ≤ field w 11 8) : decodeBranch w = .error .branchComparator := by
  unfold decodeBranch
  split
  case h_11 => rfl
  all_goals omega

/-- The low bits of an ALU word of one category. -/
theorem fields_of_alu {c : Nat} (hc : c < 4) (h : field w 3 0 = 4 * c + 2) : field w 1 0 = 2 ∧ field w 3 2 = c := by
  constructor <;> rw [field_of_field w (hi := 3) (lo := 0) (by decide) (by decide) (by decide), h] <;> omega

theorem decode_aluType (k : Slot) (h : field w 3 0 = 2) (ht : field w 6 4 ∈ [1, 3, 4, 5, 7]) :
    decode k w = .error .aluType := by
  obtain ⟨hu, hc⟩ := fields_of_alu (c := 0) (by decide) h
  have halu : decodeAlu w = .error .aluType := by
    simp only [List.mem_cons, List.not_mem_nil, or_false] at ht
    rcases ht with ht | ht | ht | ht | ht <;> simp [decodeAlu, hc, ht]
  rw [decode_alu k hu, halu, checkSlot_error]

theorem decodeRrr_op (h : 13 ≤ field w 11 8) : decodeRrr w = .error .aluOp := by
  unfold decodeRrr
  split
  case h_14 => rfl
  all_goals omega

theorem decodeRri_op (h : 13 ≤ field w 7 4) : decodeRri w = .error .aluOp := by
  unfold decodeRri
  split
  case h_14 => rfl
  all_goals omega

theorem decodeRi_op (h : 13 ≤ field w 7 4) : decodeRi w = .error .aluOp := by
  unfold decodeRi
  split
  case h_14 => rfl
  all_goals omega

theorem decode_aluOp_rrr (k : Slot) (h : field w 6 0 = 2) (hop : 13 ≤ field w 11 8) :
    decode k w = .error .aluOp := by
  have hlow : field w 3 0 = 2 := by
    rw [field_of_field w (hi := 6) (lo := 0) (by decide) (by decide) (by decide), h]; rfl
  have ht : field w 6 4 = 0 := by
    rw [field_of_field w (hi := 6) (lo := 0) (by decide) (by decide) (by decide), h]; rfl
  obtain ⟨hu, hc⟩ := fields_of_alu (c := 0) (by decide) hlow
  have halu : decodeAlu w = .error .aluOp := by simp [decodeAlu, hc, ht, decodeRrr_op hop]
  rw [decode_alu k hu, halu, checkSlot_error]

theorem decode_aluOp_imm (k : Slot) (h : field w 3 0 = 6 ∨ field w 3 0 = 10) (hop : 13 ≤ field w 7 4) :
    decode k w = .error .aluOp := by
  rcases h with h | h
  · obtain ⟨hu, hc⟩ := fields_of_alu (c := 1) (by decide) h
    have halu : decodeAlu w = .error .aluOp := by simp [decodeAlu, hc, decodeRri_op hop]
    rw [decode_alu k hu, halu, checkSlot_error]
  · obtain ⟨hu, hc⟩ := fields_of_alu (c := 2) (by decide) h
    have halu : decodeAlu w = .error .aluOp := by simp [decodeAlu, hc, decodeRi_op hop]
    rw [decode_alu k hu, halu, checkSlot_error]

/-- The low bits of a list transfer. -/
theorem fields_of_list (h : field w 2 0 = 4) : field w 1 0 = 0 ∧ bit w 2 = true := by
  refine ⟨?_, beq_iff_eq.2 ?_⟩ <;>
    rw [field_of_field w (hi := 2) (lo := 0) (by decide) (by decide) (by decide), h] <;> rfl

theorem decode_aguType (h : field w 2 0 = 4) (hlo : 2 ≤ field w 7 4) (hhi : field w 7 4 ≤ 14) :
    decode 1 w = .error .aguType := by
  obtain ⟨hu, hl⟩ := fields_of_list h
  rw [decode_agu hu, decodeAgu, if_pos hl]
  split
  case h_4 => rfl
  all_goals omega

theorem decode_dmairStore (h : field w 2 0 = 4) (ht : field w 7 4 = 1) (hs : field w 3 3 = 1) :
    decode 1 w = .error .dmairStore := by
  obtain ⟨hu, hl⟩ := fields_of_list h
  have hb : bit w 3 = true := beq_iff_eq.2 hs
  simp [decode_agu hu, decodeAgu, hl, ht, hb]

end Sys2Proof

open Sys2Proof Sys2Proof.Machine

/-- Settles O5: the fields of each clause lead the decode tree to its refusal. -/
theorem illegalEncodingsAreRefused : Obligations.IllegalEncodingsAreRefused := by
  intro k w
  refine ⟨decode_unitNotInSlot, ?_, ?_, decode_aluType k, decode_aluOp_rrr k, decode_aluOp_imm k, ?_, ?_⟩
  · rintro rfl h hc
    exact decode_branchCategory h hc
  · rintro rfl h hc hop
    rw [decodeBru_bcc h hc, decodeBranch_comparator hop]
  · rintro rfl h hlo hhi
    exact decode_aguType h hlo hhi
  · rintro rfl h ht hs
    exact decode_dmairStore h ht hs

/-- Settles O4: the decoder evaluates on ten closed words. -/
theorem printedWordsDecode : Obligations.PrintedWordsDecode := by
  unfold Obligations.PrintedWordsDecode
  decide
end

section
/-! SUPPORT. The integer operations in numbers: what the bits of a narrow result are (43_alu.md R285), what the operands
are (R284, 30_encoding.md R104), what each operation gives (R287 to R302), and that the three forms of an operation
yield it. -/

namespace Sys2Proof.Machine

open Sys2Proof

/-! ### Sizes and numbers of N bits -/

theorem Size.bits_pos (size : Size) : 0 < Size.bits size := by cases size <;> decide

theorem Size.bits_le (size : Size) : Size.bits size ≤ 64 := by cases size <;> decide

theorem natOfInt_eq (size : Size) (a : Int) : natOfInt size a = (BitVec.ofInt (Size.bits size) a).toNat := by
  simp [natOfInt]

/-- The signed reading of a pattern of N bits is that of its number (00_scope.md R9). -/
theorem toInt_eq_signedOf {size : Size} (a : BitVec (Size.bits size)) : a.toInt = signedOf size a.toNat := by
  have hpow : 2 ^ Size.bits size = 2 * 2 ^ (Size.bits size - 1) := by
    rw [← pow_succ', Nat.sub_add_cancel (Size.bits_pos size)]
  rw [BitVec.toInt_eq_toNat_cond, signedOf]
  refine if_congr ?_ rfl (by push_cast; rfl)
  omega

/-! ### Operands -/

theorem State.operand_toNat (s : State) (r : Reg) (size : Size) : (s.operand r size).toNat = s.natOf r size := by
  simp [State.operand, State.natOf]

/-- An extended immediate is the pattern of its number. -/
theorem State.immExt_eq {n : Nat} (s : State) (m : Mnemonic) (value : BitVec n) :
    s.immExt m value = BitVec.ofInt 64 (s.immOf m value) := by
  rw [← State.immValue_eq_immOf]
  cases hm : s.signsImm m
  · rw [State.immExt_of_unsigned hm, State.immValue_of_unsigned hm, BitVec.ofInt_natCast, BitVec.ofNat_toNat]
  · rw [State.immExt_of_signed hm, State.immValue_of_signed hm]
    rfl

theorem setWidth_ofInt {v w : Nat} (h : v ≤ w) (a : Int) : (BitVec.ofInt w a).setWidth v = BitVec.ofInt v a := by
  have hdvd : (2 : Int) ^ v ∣ 2 ^ w := pow_dvd_pow 2 h
  have hnonneg (n : Nat) : 0 ≤ a % 2 ^ n := Int.emod_nonneg _ (by positivity)
  apply BitVec.eq_of_toNat_eq
  rw [BitVec.toNat_setWidth, BitVec.toNat_ofInt, BitVec.toNat_ofInt, ← Int.natCast_inj]
  push_cast
  rw [Int.toNat_of_nonneg (hnonneg w), Int.toNat_of_nonneg (hnonneg v), Int.emod_emod_of_dvd _ hdvd]

theorem State.immOperand_toNat {n : Nat} (s : State) (m : Mnemonic) (value : BitVec n) (size : Size) :
    (s.immOperand m value size).toNat = natOfInt size (s.immOf m value) := by
  rw [State.immOperand, State.immExt_eq, setWidth_ofInt (Size.bits_le size), natOfInt_eq]

/-! ### Results -/

/-- The mask of the bits above the low n. -/
theorem getLsbD_upperMask (n k : Nat) : (BitVec.allOnes 64 <<< n).getLsbD k = (decide (n ≤ k) && decide (k < 64)) := by
  rw [BitVec.getLsbD_shiftLeft, BitVec.getLsbD_allOnes, Bool.eq_iff_iff]
  simp only [Bool.and_eq_true, Bool.not_eq_true', decide_eq_true_eq, decide_eq_false_iff_not]
  omega

/-- The low N bits of what is written are the result, under every NARROW_UPPER. -/
theorem extendResult_low (mode : NarrowUpper) (marked : Bool) (size : Size) (old : XWord) (counter : Nat)
    (res : BitVec (Size.bits size)) :
    (extendResult mode marked size old counter res).setWidth (Size.bits size) = res := by
  have hle := Size.bits_le size
  have hkeep (upper : XWord) :
      ((upper &&& BitVec.allOnes 64 <<< Size.bits size) ||| res.setWidth 64).setWidth (Size.bits size) = res := by
    ext k hk
    simp [hk, hk.trans_le hle]
  have hzero : (res.setWidth 64).setWidth (Size.bits size) = res := by
    rw [BitVec.setWidth_setWidth_of_le _ hle, BitVec.setWidth_eq]
  have hsign : (res.signExtend 64).setWidth (Size.bits size) = res := by
    ext k hk
    simp [BitVec.getElem_signExtend, hk, hk.trans_le hle]
  cases mode with
  | zero => exact hzero
  | sextMarked => cases marked; exacts [hzero, hsign]
  | preserve | draw => exact hkeep _

/-- What is written for a result is what NARROW_UPPER says (43_alu.md R285). -/
theorem extendResult_narrowWritten (mode : NarrowUpper) (marked : Bool) (size : Size) (old : XWord) (counter : Nat)
    (res : BitVec (Size.bits size)) :
    NarrowWritten mode marked size old (extendResult mode marked size old counter res) res.toNat := by
  have hle := Size.bits_le size
  refine ⟨?_, ?_⟩
  · rw [← BitVec.toNat_setWidth, extendResult_low]
  · have hzero : (res.setWidth 64).toNat < 2 ^ Size.bits size := by
      rw [BitVec.toNat_setWidth]
      exact (Nat.mod_le _ _).trans_lt res.isLt
    cases mode with
    | zero => exact hzero
    | sextMarked =>
      cases marked with
      | false => exact hzero
      | true =>
        intro k hk hk64
        have hlast : Size.bits size - 1 < Size.bits size := Nat.sub_one_lt (Size.bits_pos size).ne'
        change (res.signExtend 64).getLsbD k = (res.signExtend 64).getLsbD (Size.bits size - 1)
        rw [BitVec.getLsbD_signExtend, BitVec.getLsbD_signExtend, if_neg hk.not_gt, if_pos hlast,
          BitVec.msb_eq_getLsbD_last, decide_eq_true hk64, decide_eq_true (hlast.trans_le hle)]
    | preserve =>
      intro k hk
      change ((old &&& BitVec.allOnes 64 <<< Size.bits size) ||| res.setWidth 64).getLsbD k = old.getLsbD k
      rw [BitVec.getLsbD_or, BitVec.getLsbD_and, getLsbD_upperMask, BitVec.getLsbD_setWidth,
        BitVec.getLsbD_of_ge res k hk]
      by_cases hk64 : k < 64
      · simp only [hk, hk64, decide_true, Bool.and_true, Bool.and_false, Bool.or_false]
      · simp only [BitVec.getLsbD_of_ge old k (not_lt.1 hk64), Bool.false_and, Bool.and_false, Bool.or_false]
    | draw => trivial

/-- An instruction that writes a result to `dst` and goes on yields it. -/
theorem Yields.of_writeResult {i : Instr} {s : State} {dst : Reg} {marked : Bool} {size : Size}
    {res : BitVec (Size.bits size)} (h : exec i s = .next (s.writeResult dst size marked (some res)).advance) :
    Yields i s dst marked size res.toNat := by
  refine ⟨_, h, ⟨?_, fun r hr => State.getX_setX_of_ne s dst r _ hr⟩, ?_⟩
  · rw [← State.nextPc_eq]
    rfl
  · have hdst : ((s.writeResult dst size marked (some res)).advance).getX dst =
        extendResult s.params.narrowUpper marked size (s.getX dst) s.draws res := State.getX_setX_self ..
    rw [hdst]
    exact extendResult_narrowWritten ..

/-! ### Operations -/

/-- The operation gives `res` for the numbers `l` and `r`. -/
def Gives (op : (n : Nat) → BitVec n → BitVec n → Option (BitVec n)) (size : Size) (l r res : Nat) : Prop :=
  ∀ a b : BitVec (Size.bits size), a.toNat = l → b.toNat = r → ∃ v, op _ a b = some v ∧ v.toNat = res

section
variable {size : Size} {l r : Nat}

theorem opAdd_gives : Gives opAdd size l r ((l + r) % 2 ^ Size.bits size) := by
  rintro a b rfl rfl
  exact ⟨_, rfl, BitVec.toNat_add ..⟩

theorem opSub_gives : Gives opSub size l r ((l + (2 ^ Size.bits size - r)) % 2 ^ Size.bits size) := by
  rintro a b rfl rfl
  exact ⟨_, rfl, by rw [BitVec.toNat_sub, Nat.add_comm]⟩

theorem opMuls_gives : Gives opMuls size l r (natOfInt size (signedOf size l * signedOf size r)) := by
  rintro a b rfl rfl
  exact ⟨_, rfl, by rw [natOfInt_eq, toInt_eq_signedOf, toInt_eq_signedOf]⟩

theorem opMulu_gives : Gives opMulu size l r (l * r % 2 ^ Size.bits size) := by
  rintro a b rfl rfl
  exact ⟨_, rfl, BitVec.toNat_ofNat ..⟩

theorem opAnd_gives : Gives opAnd size l r (l &&& r) := by
  rintro a b rfl rfl
  exact ⟨_, rfl, BitVec.toNat_and ..⟩

theorem opOr_gives : Gives opOr size l r (l ||| r) := by
  rintro a b rfl rfl
  exact ⟨_, rfl, BitVec.toNat_or ..⟩

theorem opXor_gives : Gives opXor size l r (l ^^^ r) := by
  rintro a b rfl rfl
  exact ⟨_, rfl, BitVec.toNat_xor ..⟩

theorem opDivs_gives (hr : r ≠ 0) (h : ¬(signedOf size l = -2 ^ (Size.bits size - 1) ∧ signedOf size r = -1)) :
    Gives opDivs size l r (natOfInt size ((signedOf size l).tdiv (signedOf size r))) := by
  rintro a b rfl rfl
  have hb : b ≠ 0 := fun hb => hr (by simp [hb])
  rw [← toInt_eq_signedOf, ← toInt_eq_signedOf] at h ⊢
  exact ⟨_, if_neg (by simpa using And.intro hb (not_and.1 h)), (natOfInt_eq ..).symm⟩

theorem opDivu_gives (hr : r ≠ 0) : Gives opDivu size l r (l / r) := by
  rintro a b rfl rfl
  have hb : b ≠ 0 := fun hb => hr (by simp [hb])
  refine ⟨_, if_neg hb, ?_⟩
  rw [BitVec.toNat_ofNat, Nat.mod_eq_of_lt ((Nat.div_le_self ..).trans_lt a.isLt)]

theorem opAsl_gives (hr : r < Size.bits size) : Gives opAsl size l r (l * 2 ^ r % 2 ^ Size.bits size) := by
  rintro a b rfl rfl
  exact ⟨_, if_neg hr.not_ge, by rw [BitVec.toNat_shiftLeft, Nat.shiftLeft_eq]⟩

theorem opLsl_gives (hr : r < Size.bits size) : Gives opLsl size l r (l * 2 ^ r % 2 ^ Size.bits size) := opAsl_gives hr

theorem opAsr_gives (hr : r < Size.bits size) : Gives opAsr size l r (natOfInt size (signedOf size l / 2 ^ r)) := by
  rintro a b rfl rfl
  refine ⟨_, if_neg hr.not_ge, ?_⟩
  rw [BitVec.sshiftRight, Int.shiftRight_eq_div_pow, natOfInt_eq, toInt_eq_signedOf]
  push_cast
  rfl

theorem opLsr_gives (hr : r < Size.bits size) : Gives opLsr size l r (l / 2 ^ r) := by
  rintro a b rfl rfl
  exact ⟨_, if_neg hr.not_ge, by rw [BitVec.toNat_ushiftRight, Nat.shiftRight_eq_div_pow]⟩

end

/-! ### The three forms -/

section
variable {i : Instr} {s : State} {op : (n : Nat) → BitVec n → BitVec n → Option (BitVec n)} {marked : Bool}
  {dst left right : Reg} {size : Size} {m : Mnemonic} {res : Nat}

theorem Gives.rrr (h : Gives op size (s.natOf left size) (s.natOf right size) res)
    (hi : exec i s = s.aluRrr op marked dst left right size) : Yields i s dst marked size res := by
  obtain ⟨v, hv, rfl⟩ := h _ _ (s.operand_toNat left size) (s.operand_toNat right size)
  exact .of_writeResult (by rw [hi, State.aluRrr, hv])

theorem Gives.rri {value : BitVec 10} (h : Gives op size (s.natOf left size) (natOfInt size (s.immOf m value)) res)
    (hi : exec i s = s.aluRri m op marked dst left value size) : Yields i s dst marked size res := by
  obtain ⟨v, hv, rfl⟩ := h _ _ (s.operand_toNat left size) (s.immOperand_toNat m value size)
  exact .of_writeResult (by rw [hi, State.aluRri, hv])

theorem Gives.ri {value : BitVec 16} (h : Gives op size (s.natOf dst size) (natOfInt size (s.immOf m value)) res)
    (hi : exec i s = s.aluRi m op marked dst value size) : Yields i s dst marked size res := by
  obtain ⟨v, hv, rfl⟩ := h _ _ (s.operand_toNat dst size) (s.immOperand_toNat m value size)
  exact .of_writeResult (by rw [hi, State.aluRi, hv])

end

end Sys2Proof.Machine

open Sys2Proof Sys2Proof.Machine

/-- Settles O23: each operation gives its number, and each form yields what its operation gives. -/
theorem aluArithmetic : Obligations.AluArithmetic := by
  intro s dst left right imm10 imm16 size
  exact ⟨opAdd_gives.rrr rfl, opSub_gives.rrr rfl, opMuls_gives.rrr rfl, opMulu_gives.rrr rfl,
    opAdd_gives.rri rfl, opSub_gives.rri rfl, opMuls_gives.rri rfl, opMulu_gives.rri rfl,
    opAdd_gives.ri rfl, opSub_gives.ri rfl, opMuls_gives.ri rfl, opMulu_gives.ri rfl⟩

/-- Settles O24: a bitwise operation on patterns is that operation on their numbers, and each form yields it. -/
theorem aluLogic : Obligations.AluLogic := by
  intro s dst left right imm10 imm16 size
  exact ⟨opAnd_gives.rrr rfl, opOr_gives.rrr rfl, opXor_gives.rrr rfl, opAnd_gives.rri rfl,
    opOr_gives.rri rfl, opXor_gives.rri rfl, opAnd_gives.ri rfl, opOr_gives.ri rfl,
    opXor_gives.ri rfl⟩

/-- Settles O25: where the quotient is given, the model's guard does not hold, and each form yields the quotient. -/
theorem aluDivision : Obligations.AluDivision := by
  intro s dst left right imm10 imm16 size
  exact ⟨fun hr h => (opDivs_gives hr h).rrr rfl, fun hr h => (opDivs_gives hr h).rri rfl,
    fun hr h => (opDivs_gives hr h).ri rfl, fun hr => (opDivu_gives hr).rrr rfl, fun hr => (opDivu_gives hr).rri rfl,
    fun hr => (opDivu_gives hr).ri rfl⟩

/-- Settles O26: below N the model shifts, by a product or a quotient with a power of two, and each form yields it. -/
theorem aluShifts : Obligations.AluShifts := by
  intro s dst left right imm10 imm16 size
  exact ⟨fun hr => ⟨(opAsl_gives hr).rrr rfl, (opLsl_gives hr).rrr rfl, (opAsr_gives hr).rrr rfl,
      (opLsr_gives hr).rrr rfl⟩,
    fun hr => (opAsl_gives hr).rri rfl, fun hr => (opLsl_gives hr).rri rfl, fun hr => (opAsr_gives hr).rri rfl,
    fun hr => (opLsr_gives hr).rri rfl, fun hr => (opAsl_gives hr).ri rfl, fun hr => (opLsl_gives hr).ri rfl,
    fun hr => (opAsr_gives hr).ri rfl, fun hr => (opLsr_gives hr).ri rfl⟩
end

section
/-! SUPPORT. The bytes that the engine has still to copy, as a list of moves, and what one turn of the engine does to
them (40_bundle.md R171). -/

namespace Sys2Proof.Machine

open Sys2Proof

variable {s t u : State}

/-! ### Moves -/

/-- A byte of a memory: its space and its address. -/
abbrev Place := Space × Nat

/-- What a byte of the state holds. -/
def State.at (s : State) (p : Place) : Option Byte := s.byteAt p.1 p.2

/-- One byte still to be copied: from a place to a place. -/
structure Move where
  src : Place
  dst : Place

/-- The byte at offset `k` of a transfer. -/
def Transfer.move (tr : Transfer) (k : Nat) : Move := ⟨(tr.src, tr.srcAddr + k), (tr.dst, tr.dstAddr + k)⟩

/-- The bytes that the engine has still to copy. -/
def State.moves (s : State) : List Move := s.dmaq.flatMap fun tr => tr.pending.map tr.move

/-- Two moves of which neither writes what the other reads or writes. -/
def Move.Apart (m n : Move) : Prop := m.dst ≠ n.dst ∧ m.src ≠ n.dst ∧ n.src ≠ m.dst

theorem State.mem_moves {m : Move} :
    m ∈ s.moves ↔ ∃ tr ∈ s.dmaq, ∃ k, (k < tr.len ∧ k ∉ tr.copied) ∧ tr.move k = m := by
  simp [State.moves, Transfer.mem_pending]

theorem State.moves_length (s : State) : s.moves.length = s.remaining := by
  simp [State.moves, State.remaining, List.length_flatMap]

/-- The offsets left after one more is copied. -/
theorem Transfer.pending_withCopied (tr : Transfer) (k : Nat) : (tr.withCopied k).pending = tr.pending.erase k := by
  have hnodup : tr.pending.Nodup := List.nodup_range.filter _
  rw [hnodup.erase_eq_filter]
  simp only [Transfer.pending, List.filter_filter]
  refine List.filter_congr fun j _ => ?_
  rw [Bool.eq_iff_iff]
  simp [Transfer.withCopied, mem_insertOffset]

/-- The moves of a transfer after one of its bytes is copied. -/
theorem Transfer.moves_withCopied {tr : Transfer} {k : Nat} (hk : k ∈ tr.pending) :
    (tr.pending.map tr.move).Perm (tr.move k :: (tr.withCopied k).pending.map (tr.withCopied k).move) := by
  rw [Transfer.pending_withCopied]
  exact (List.perm_cons_erase hk).map tr.move

/-- Transfers between different spaces that do not race make moves that are apart (20_memory.md R76). -/
theorem State.moves_apart (hs : s.raceFree = true) (hne : ∀ tr ∈ s.dmaq, tr.src ≠ tr.dst) :
    s.moves.Pairwise Move.Apart := by
  have hfree : s.dmaq.Pairwise Transfer.Apart :=
    noRaces_iff.1 (noRaces_sublist hs (List.sublist_append_left ..))
  refine List.pairwise_flatMap.2 ⟨fun tr htr => ?_, hfree.imp fun {tr u} hr => ?_⟩
  · have hnodup : tr.pending.Nodup := List.nodup_range.filter _
    refine List.pairwise_map.2 (hnodup.imp fun {j k} hjk => ?_)
    have h := hne tr htr
    simp only [Move.Apart, Transfer.move, ne_eq, Prod.mk.injEq, not_and]
    exact ⟨fun _ => by omega, fun e => absurd e h, fun e => absurd e h⟩
  · rw [Transfer.Apart, Transfer.races] at hr
    simp only [Bool.or_eq_false_iff, Transfer.writes, Transfer.reads, Bool.and_eq_false_imp, beq_iff_eq] at hr
    obtain ⟨⟨hww, hrw⟩, hwr⟩ := hr
    have hmiss {a n b m j k : Nat} (h : rangesOverlap a n b m = false) (hj : j < n) (hk : k < m) : a + j ≠ b + k :=
      fun e => Bool.eq_false_iff.1 h (rangesOverlap_iff.2 ⟨a + j, by omega, by omega⟩)
    simp only [List.mem_map, Transfer.mem_pending]
    rintro m ⟨j, ⟨hj, -⟩, rfl⟩ n ⟨k, ⟨hk, -⟩, rfl⟩
    simp only [Move.Apart, Transfer.move, ne_eq, Prod.mk.injEq, not_and]
    exact ⟨fun e => hmiss (hww e) hj hk, fun e => hmiss (hrw e) hj hk, fun e => (hmiss (hwr e.symm) hj hk).symm⟩

/-! ### A turn of the engine -/

/-- The memories, the transfers and the script may differ, and nothing else. -/
def State.OnlyEngine (s t : State) : Prop :=
  t = { s with isram := t.isram, dsram := t.dsram, cache := t.cache, ram := t.ram, dmaq := t.dmaq
               landed := t.landed, script := t.script }

theorem State.OnlyEngine.trans (h : s.OnlyEngine t) (h' : t.OnlyEngine u) : s.OnlyEngine u := by
  unfold State.OnlyEngine at *
  refine h'.trans ?_
  rw [h]

/-- The state after one byte is copied: the move `m`, and nothing else. -/
structure State.Copies (s : State) (m : Move) (t : State) : Prop where
  byte : t.at m.dst = s.at m.src
  others : ∀ p, p ≠ m.dst → t.at p = s.at p
  left : s.moves.Perm (m :: t.moves)
  control : s.OnlyEngine t

/-- The script does not matter to what is copied. -/
theorem State.Copies.of_script {m : Move} {script : List EngineTurn}
    (h : State.Copies { s with script := script } m t) :
    s.Copies m t :=
  have hscript : s.OnlyEngine { s with script := script } := rfl
  ⟨h.byte, h.others, h.left, hscript.trans h.control⟩

/-- A byte written in a space, and the others as they were. -/
theorem State.at_setMem_set (s : State) (sp : Space) (a : Nat) (b : Byte) (p : Place) (hsp : sp ≠ .iosram) :
    (s.setMem sp ((s.mem sp).set a b)).at p = if p = (sp, a) then some b else s.at p := by
  obtain ⟨sp', c⟩ := p
  rw [State.at, State.byteAt_setMem _ _ _ _ _ hsp]
  by_cases hs : sp' = sp
  · subst hs
    by_cases hc : c = a
    · simp [hc]
    · simp [hc, Memory.get?_set_of_ne, State.at, State.byteAt]
  · simp [hs, State.at]

/-- The copy of a byte that is left, of a transfer in flight. -/
theorem State.copyByte_copies {j k : Nat} {tr : Transfer} (hj : s.dmaq[j]? = some tr) (hk : k ∈ tr.pending)
    (hdst : tr.dst ≠ .iosram) (h : s.copyByte j tr k = .next t) : s.Copies (tr.move k) t := by
  obtain ⟨b, hb, hcase⟩ := State.copyByte_next h
  obtain ⟨hlt, rfl⟩ := List.getElem?_eq_some_iff.1 hj
  generalize hw : s.setMem _ _ = w at hcase
  have hmem (p : Place) : t.at p = w.at p := by
    obtain ⟨-, rfl⟩ | ⟨-, rfl⟩ := hcase <;> rfl
  have hat (p : Place) : t.at p = if p = (s.dmaq[j].move k).dst then some b else s.at p := by
    rw [hmem, ← hw, State.at_setMem_set _ _ _ _ _ hdst]
    rfl
  have hcontrol : s.OnlyEngine w := by
    rw [← hw]
    generalize (s.mem s.dmaq[j].dst).set _ b = m
    cases s.dmaq[j].dst <;> rfl
  have hold : s.moves.Perm (s.dmaq[j].move k :: ((s.dmaq[j].withCopied k).pending.map (s.dmaq[j].withCopied k).move ++
      (s.dmaq.eraseIdx j).flatMap fun tr => tr.pending.map tr.move)) := by
    have hperm := (List.getElem_cons_eraseIdx_perm hlt).symm.flatMap_right fun tr => tr.pending.map tr.move
    exact hperm.trans ((Transfer.moves_withCopied hk).append_right _)
  refine ⟨?_, fun p hp => ?_, ?_, ?_⟩
  · rw [hat, if_pos rfl]
    exact hb.symm
  · rw [hat, if_neg hp]
  · obtain ⟨hdone, rfl⟩ | ⟨-, rfl⟩ := hcase
    · rw [List.isEmpty_iff.1 hdone, List.map_nil, List.nil_append] at hold
      exact hold
    · refine hold.trans (List.Perm.cons _ ?_)
      exact ((List.set_perm_cons_eraseIdx hlt _).flatMap_right fun tr => tr.pending.map tr.move).symm
  · obtain ⟨-, rfl⟩ | ⟨-, rfl⟩ := hcase <;> exact hcontrol.trans rfl

end Sys2Proof.Machine
end

section
/-! The engine completes the transfers in flight, whether the core has stopped or is held by a WAIT (40_bundle.md R171,
R173, R174). -/

namespace Sys2Proof.Machine

open Sys2Proof

variable {s t u : State}

/-! ### Runs of the engine -/

/-- Every byte that is left to copy holds a value. -/
def State.MovesHeld (s : State) : Prop := ∀ m ∈ s.moves, (s.at m.src).isSome = true

theorem State.movesHeld (h : s.sourcesHeld) : s.MovesHeld := by
  intro m hm
  obtain ⟨tr, htr, k, ⟨hk, -⟩, rfl⟩ := State.mem_moves.1 hm
  exact h tr htr k hk

/-- A transfer of the machine has bytes left, and goes from one space to another, which is not IOSRAM. -/
theorem State.Sound.transfer {late : Nat} (hs : s.Sound late) {tr : Transfer} (htr : tr ∈ s.dmaq) :
    tr.pending ≠ [] ∧ tr.src ≠ tr.dst ∧ tr.dst ≠ .iosram := by
  obtain ⟨hsound, hflight⟩ := hs.flying tr htr
  simp only [Transfer.sound, Transfer.inFlight, Bool.and_eq_true, bne_iff_ne, ne_eq, Bool.not_eq_true',
    List.isEmpty_eq_false_iff] at hsound hflight
  obtain ⟨⟨⟨⟨⟨⟨⟨⟨hne, -⟩, hio⟩, -⟩, -⟩, -⟩, -⟩, -⟩, -⟩ := hsound
  exact ⟨hflight.2, hne, hio⟩

/-- The byte that the engine picks is one that is left. -/
theorem State.Sound.engineMove_copies {late : Nat} (hs : s.Sound late) (hheld : s.MovesHeld) (hd : s.dmaq ≠ []) :
    ∃ t tr k, s.engineMove = .next t ∧ tr ∈ s.dmaq ∧ k ∈ tr.pending ∧ s.Copies (tr.move k) t := by
  have hj : s.pick % s.dmaq.length < s.dmaq.length := Nat.mod_lt _ (List.length_pos_iff.2 hd)
  generalize hjn : s.pick % s.dmaq.length = j at hj
  have htr : s.dmaq[j] ∈ s.dmaq := List.getElem_mem hj
  obtain ⟨hpending, -, hio⟩ := hs.transfer htr
  have hn : s.pick / s.dmaq.length % s.dmaq[j].pending.length < s.dmaq[j].pending.length :=
    Nat.mod_lt _ (List.length_pos_iff.2 hpending)
  generalize hkn : s.pick / s.dmaq.length % s.dmaq[j].pending.length = n at hn
  have hk : s.dmaq[j].pending[n] ∈ s.dmaq[j].pending := List.getElem_mem hn
  have hmove : s.engineMove = s.pickTaken.copyByte j s.dmaq[j] s.dmaq[j].pending[n] := by
    simp only [State.engineMove, State.pickTaken_dmaq, hjn, List.getElem?_eq_getElem hj, hkn,
      List.getElem?_eq_getElem hn]
  have hmem : s.dmaq[j].move s.dmaq[j].pending[n] ∈ s.moves :=
    State.mem_moves.2 ⟨_, htr, _, Transfer.mem_pending.1 hk, rfl⟩
  obtain ⟨b, hb⟩ := Option.isSome_iff_exists.1 (hheld _ hmem)
  have hcopy : ∃ t, s.pickTaken.copyByte j s.dmaq[j] s.dmaq[j].pending[n] = .next t := by
    have hb' : s.pickTaken.byteAt s.dmaq[j].src (s.dmaq[j].srcAddr + s.dmaq[j].pending[n]) = some b := by
      rw [State.pickTaken_eq]
      exact hb
    simp only [State.copyByte, hb']
    split <;> exact ⟨_, rfl⟩
  obtain ⟨t, ht⟩ := hcopy
  have hflying : s.pickTaken.dmaq[j]? = some s.dmaq[j] := by
    rw [State.pickTaken_dmaq, List.getElem?_eq_getElem hj]
  refine ⟨t, _, _, hmove.trans ht, htr, hk, ?_⟩
  have hcopies := State.copyByte_copies hflying hk hio ht
  rw [State.pickTaken_eq] at hcopies
  exact hcopies.of_script

/-- A byte copied is one byte less to copy. -/
theorem State.Copies.remaining {m : Move} (h : s.Copies m t) : t.remaining + 1 = s.remaining := by
  rw [← State.moves_length, ← State.moves_length, h.left.length_eq, List.length_cons]

/-- What lets the engine copy every byte that is left. -/
structure State.Ready (s : State) : Prop where
  sound : s.Sound 1
  free : s.raceFree = true
  held : s.MovesHeld

theorem State.ready (hs : s.invariant = true) (hf : s.raceFree = true) (hh : s.sourcesHeld) : s.Ready :=
  ⟨State.invariant_iff.1 hs, hf, State.movesHeld hh⟩

theorem State.Ready.apart (hs : s.Ready) : s.moves.Pairwise Move.Apart :=
  State.moves_apart hs.free fun _ htr => (hs.sound.transfer htr).2.1

/-- While a transfer is in flight bytes are left to copy. -/
theorem State.Ready.dmaq_of_moves (hs : s.Ready) (h : s.moves = []) : s.dmaq = [] := by
  refine List.eq_nil_iff_forall_not_mem.2 fun tr htr => ?_
  obtain ⟨k, hk⟩ := List.exists_mem_of_ne_nil _ (hs.sound.transfer htr).1
  have hm : tr.move k ∈ s.moves := State.mem_moves.2 ⟨tr, htr, k, Transfer.mem_pending.1 hk, rfl⟩
  rw [h] at hm
  cases hm

/-- A move writes neither what the others read nor what they write. -/
theorem State.Copies.apart (hs : s.Ready) {m n : Move} (h : s.Copies m t) (hn : n ∈ t.moves) : m.Apart n := by
  have hsymm : ∀ {a b : Move}, a.Apart b → b.Apart a := fun hab => ⟨hab.1.symm, hab.2.2, hab.2.1⟩
  exact List.rel_of_pairwise_cons ((h.left.pairwise_iff hsymm).1 hs.apart) hn

/-- After a turn of the engine it can copy the bytes that are left. -/
theorem State.Ready.copied (hs : s.Ready) (he : s.engineMove = .next t) {m : Move} (h : s.Copies m t) : t.Ready := by
  refine ⟨hs.sound.engineMove he, engineMove_raceFree hs.free he, fun n hn => ?_⟩
  rw [h.others n.src (h.apart hs hn).2.2]
  exact hs.held n (h.left.mem_iff.2 (List.mem_cons_of_mem m hn))

/-- All the moves are made, every destination holding its source as it was, and nothing else is changed. -/
structure State.Finishes (s t : State) : Prop where
  idle : t.dmaq = []
  bytes : ∀ m ∈ s.moves, t.at m.dst = s.at m.src
  others : ∀ p, (∀ m ∈ s.moves, p ≠ m.dst) → t.at p = s.at p
  control : s.OnlyEngine t

/-- A step that is a turn of the engine, as far as the script goes. -/
def EngineSteps (s : State) : Prop := ∃ s', (s' = s ∨ s' = s.turnTaken) ∧ step s = s'.engineMove

/-- Such a step copies a byte that is left. -/
theorem State.Ready.step (hs : s.Ready) (hd : s.dmaq ≠ []) (he : EngineSteps s) :
    ∃ t m, step s = .next t ∧ s.Copies m t ∧ t.Ready ∧
      (t.unordered.map Transfer.outline).Perm (s.unordered.map Transfer.outline) := by
  obtain ⟨s', hs', hstep⟩ := he
  have hscript : ∃ script, s' = { s with script := script } := by
    obtain rfl | rfl := hs'
    · exact ⟨_, rfl⟩
    · exact ⟨_, State.turnTaken_eq s⟩
  obtain ⟨script, rfl⟩ := hscript
  have hready : State.Ready { s with script := script } := ⟨{ hs.sound with }, hs.free, hs.held⟩
  obtain ⟨t, tr, k, ht, -, -, hcopies⟩ := hready.sound.engineMove_copies hready.held hd
  exact ⟨t, tr.move k, hstep.trans ht, hcopies.of_script, hready.copied ht hcopies,
    engineMove_outlines (s := { s with script := script }) ht⟩

/-- Where the engine moves in every state that `P` holds of while a transfer is in flight, and `P` stays, it makes all
the moves in as many steps as there are. -/
theorem runSteps_finishes {P : State → Prop} (hengine : ∀ s, P s → s.dmaq ≠ [] → EngineSteps s)
    (hkeep : ∀ s t m, P s → m ∈ s.moves → s.Copies m t →
      (t.unordered.map Transfer.outline).Perm (s.unordered.map Transfer.outline) → P t)
    (hs : s.Ready) (hP : P s) : ∃ t, runSteps s.remaining s = .next t ∧ P t ∧ s.Finishes t := by
  generalize hn : s.remaining = n
  induction n generalizing s with
  | zero =>
    have hmoves : s.moves = [] := List.length_eq_zero_iff.1 (s.moves_length.trans hn)
    exact ⟨s, rfl, hP, hs.dmaq_of_moves hmoves, by simp [hmoves], fun _ _ => rfl, rfl⟩
  | succ n ih =>
    have hd : s.dmaq ≠ [] := fun hd => by simp [State.remaining, hd] at hn
    obtain ⟨t, m, ht, hcopies, hready, houtlines⟩ := hs.step hd (hengine s hP hd)
    have hm : m ∈ s.moves := hcopies.left.mem_iff.2 List.mem_cons_self
    have hleft : t.remaining = n := by have := hcopies.remaining; omega
    obtain ⟨u, hu, hPu, hfin⟩ := ih hready (hkeep s t m hP hm hcopies houtlines) hleft
    refine ⟨u, ?_, hPu, hfin.idle, fun n hn => ?_, fun p hp => ?_, hcopies.control.trans hfin.control⟩
    · rw [runSteps, ht, andThen_next_left, hu]
    · obtain rfl | hn := List.mem_cons.1 (hcopies.left.mem_iff.1 hn)
      · rw [hfin.others _ fun q hq => (hcopies.apart hs hq).1, hcopies.byte]
      · rw [hfin.bytes n hn, hcopies.others _ (hcopies.apart hs hn).2.2]
    · have hpm (n : Move) (hn : n ∈ m :: t.moves) : p ≠ n.dst := hp n (hcopies.left.mem_iff.2 hn)
      rw [hfin.others p fun q hq => hpm q (List.mem_cons_of_mem m hq), hcopies.others p (hpm m List.mem_cons_self)]

/-! ### The bundle under a WAIT -/

/-- A read of bytes depends on those bytes alone. -/
theorem Memory.readBytes_congr {m m' : Memory} {a n : Nat} (h : ∀ c, a ≤ c → c < a + n → m'.get? c = m.get? c) :
    m'.readBytes a n = m.readBytes a n := by
  induction n generalizing a with
  | zero => rfl
  | succ n ih =>
    rw [Memory.readBytes, Memory.readBytes, h a (by omega) (by omega), ih fun c hc hc' => h c (by omega) (by omega)]

/-- The races of a read with transfers depend on their ranges alone. -/
theorem State.readRaces_of_outlines (h : (t.unordered.map Transfer.outline).Perm (s.unordered.map Transfer.outline))
    (sp : Space) (a n : Nat) : t.readRaces sp a n = s.readRaces sp a n := by
  have hany (l : List Transfer) :
      (l.map Transfer.outline).any (fun tr => tr.writes sp a n) = l.any fun tr => tr.writes sp a n := by
    rw [List.any_map]
    rfl
  rw [State.readRaces, State.readRaces, ← hany t.unordered, h.any_eq, hany]

/-- Where no transfer that no WAIT has ordered writes the bundle, a copied byte leaves it. -/
theorem State.Copies.fetch {m : Move} (h : s.Copies m t) (hm : m ∈ s.moves) (hr : s.fetchRaces = false)
    (ho : (t.unordered.map Transfer.outline).Perm (s.unordered.map Transfer.outline)) :
    t.fetchBundle = s.fetchBundle ∧ t.fetchRaces = false := by
  have hpc : t.pc = s.pc := by rw [h.control]
  have hw : t.width = s.width := by rw [h.control]; rfl
  have hp : t.params = s.params := by rw [h.control]
  have hraces : t.fetchRaces = s.fetchRaces := by
    rw [State.fetchRaces, State.fetchRaces, hpc, hw, State.readRaces_of_outlines ho]
  have hread : t.isram.readBytes s.pc.toNat (4 * s.width) = s.isram.readBytes s.pc.toNat (4 * s.width) := by
    refine Memory.readBytes_congr fun c hc hc' => h.others (.isram, c) fun e => ?_
    obtain ⟨tr, htr, k, ⟨hk, -⟩, rfl⟩ := State.mem_moves.1 hm
    obtain ⟨hdst, hck⟩ := Prod.mk.inj e
    refine List.any_eq_false.1 hr tr (List.mem_append_left _ htr) ?_
    rw [Transfer.writes, ← hdst, beq_self_eq_true, Bool.true_and, rangesOverlap_iff]
    exact ⟨c, by omega, hc, hc'⟩
  refine ⟨?_, hraces.trans hr⟩
  simp only [State.fetchBundle, State.fetch, hpc, hw, hp, hread, hraces]

/-- The script does not matter to the bundle. -/
theorem State.turnTaken_fetchBundle (s : State) : s.turnTaken.fetchBundle = s.fetchBundle := by
  rw [State.turnTaken_eq]
  rfl

/-- A bundle that a WAIT holds lets the engine move. -/
theorem engineSteps_of_held {is : List Instr} (hrun : s.status = .running) (hf : s.fetchBundle = .next is)
    (hw : hasWait is = true) (hd : s.dmaq ≠ []) : EngineSteps s := by
  have hempty : s.dmaq.isEmpty = false := by simpa using hd
  unfold EngineSteps
  rw [step_running hrun, stepRunning, hempty, if_neg Bool.false_ne_true]
  by_cases he : s.engineTurn = true
  · exact ⟨s, .inl rfl, by rw [if_pos he]⟩
  · have hholds : s.turnTaken.holds is = true := by simp [State.holds, hw, hempty]
    refine ⟨s.turnTaken, .inr rfl, ?_⟩
    rw [if_neg he, State.coreMove, State.turnTaken_fetchBundle, hf, andThen_next_left, if_pos hholds]

end Sys2Proof.Machine

open Sys2Proof Sys2Proof.Machine

/-- Settles O39: the two branches of the model's WAIT. -/
theorem waitHoldsOrCompletes : Obligations.WaitHoldsOrCompletes := by
  refine fun s => ⟨fun hd => ?_, exec_wait_of_pending⟩
  rw [exec_wait_of_idle hd, ← State.nextPc_eq]
  rfl

/-- Settles O40: the engine's pick is a byte that is left, whose source holds a value. -/
theorem engineCopiesOneByte : Obligations.EngineCopiesOneByte := by
  intro s hs hd hh
  obtain ⟨t, tr, k, ht, htr, hk, hcopies⟩ :=
    (State.invariant_iff.1 hs).engineMove_copies (State.movesHeld hh) hd
  obtain ⟨hlt, hnew⟩ := Transfer.mem_pending.1 hk
  refine ⟨t, tr, k, ht, htr, hlt, hnew, hcopies.byte, fun sp c hc => ?_, hcopies.remaining, hcopies.control⟩
  exact hcopies.others (sp, c) fun e => hc (Prod.mk.inj e)

/-- Settles O41: a stopped core leaves every turn to the engine. -/
theorem stoppedMachineCompletesTransfers : Obligations.StoppedMachineCompletesTransfers := by
  intro s hs hf hh hstopped
  have hengine (s : State) (hstopped : s.status ≠ .running) (hd : s.dmaq ≠ []) : EngineSteps s := by
    refine ⟨s, .inl rfl, ?_⟩
    unfold step stepStopped
    split <;> simp_all
  have hkeep (s t : State) (m : Move) (hP : s.status ≠ .running) (_ : m ∈ s.moves) (h : s.Copies m t)
      (_ : (t.unordered.map Transfer.outline).Perm (s.unordered.map Transfer.outline)) : t.status ≠ .running := by
    rw [h.control]
    exact hP
  obtain ⟨t, ht, -, hfin⟩ := runSteps_finishes hengine hkeep (State.ready hs hf hh) hstopped
  refine ⟨t, ht, hfin.idle, fun tr htr k hk hnew => ?_, fun sp c hc => ?_⟩
  · exact hfin.bytes _ (State.mem_moves.2 ⟨tr, htr, k, ⟨hk, hnew⟩, rfl⟩)
  · refine hfin.others (sp, c) fun m hm e => ?_
    obtain ⟨tr, htr, k, ⟨hk, hnew⟩, rfl⟩ := State.mem_moves.1 hm
    exact hc tr htr k hk hnew (Prod.mk.inj e)

/-- Settles O42: while the WAIT holds, every turn is the engine's and leaves the bundle. -/
theorem heldBundleRunsAfterTheTransfers : Obligations.HeldBundleRunsAfterTheTransfers := by
  intro s is hs hf hh hrun hfetch hw hr
  have hengine (s : State) (hP : s.status = .running ∧ s.fetchBundle = .next is ∧ s.fetchRaces = false)
      (hd : s.dmaq ≠ []) : EngineSteps s := engineSteps_of_held hP.1 hP.2.1 hw hd
  have hkeep (s t : State) (m : Move) (hP : s.status = .running ∧ s.fetchBundle = .next is ∧ s.fetchRaces = false)
      (hm : m ∈ s.moves) (h : s.Copies m t)
      (ho : (t.unordered.map Transfer.outline).Perm (s.unordered.map Transfer.outline)) :
      t.status = .running ∧ t.fetchBundle = .next is ∧ t.fetchRaces = false := by
    obtain ⟨hrun, hfetch, hr⟩ := hP
    obtain ⟨hfetch', hr'⟩ := h.fetch hm hr ho
    exact ⟨by rw [h.control]; exact hrun, hfetch'.trans hfetch, hr'⟩
  obtain ⟨t, ht, ⟨hrun', hfetch', hr'⟩, hfin⟩ :=
    runSteps_finishes hengine hkeep (State.ready hs hf hh) ⟨hrun, hfetch, hr⟩
  have hstep : step t = runBundle t is := by
    have hempty : t.dmaq.isEmpty = true := by simp [hfin.idle]
    rw [step_running hrun', stepRunning, if_pos hempty, State.coreMove, hfetch', andThen_next_left,
      runFetched_of_noRace hr']
    simp [State.holds, hfin.idle]
  refine ⟨t, ht, hfin.idle, hrun', hfetch', hstep, ?_⟩
  have hcontrol := hfin.control
  rwa [State.OnlyEngine, hfin.idle] at hcontrol
end

section
/-! SUPPORT. Locations of the state: which overlap, and what a write of a register, of lanes or of bytes does to each
(40_bundle.md R166; 10_state.md R37; log 3). -/

namespace Sys2Proof.Machine

open Sys2Proof

variable {s t u : State} {l : Loc}

/-! ### Overlap and sameness -/

/-- Which of two locations comes first does not matter to their overlap. -/
theorem Loc.overlaps_comm (mode : FprOverlay) (l m : Loc) : l.overlaps mode m = m.overlaps mode l := by
  cases l <;> cases m <;> try rfl
  case x.x | f.f | d.d | acc.acc => exact BEq.comm
  case v.v => exact congrArg₂ (· && ·) BEq.comm BEq.comm
  case mem.mem => exact congrArg₂ (· && ·) BEq.comm (rangesOverlap_comm ..)

theorem Loc.overlaps_x (mode : FprOverlay) (a b : Reg) : (Loc.x a).overlaps mode (.x b) = (a == b) := rfl

theorem Loc.overlaps_f (mode : FprOverlay) (a b : FReg) : (Loc.f a).overlaps mode (.f b) = (a == b) := rfl

theorem Loc.overlaps_d (mode : FprOverlay) (a b : DReg) : (Loc.d a).overlaps mode (.d b) = (a == b) := rfl

theorem Loc.overlaps_v (mode : FprOverlay) (a b : VReg) (j k : Fin 4) :
    (Loc.v a j).overlaps mode (.v b k) = (a == b && j == k) := rfl

theorem Loc.overlaps_acc (mode : FprOverlay) (j k : Fin 4) : (Loc.acc j).overlaps mode (.acc k) = (j == k) := rfl

theorem Loc.overlaps_mem (mode : FprOverlay) (sp sp' : Space) (a n b m : Nat) :
    (Loc.mem sp a n).overlaps mode (.mem sp' b m) = (sp == sp' && rangesOverlap a n b m) := rfl

theorem Loc.overlaps_f_d (mode : FprOverlay) (a : FReg) (b : DReg) :
    (Loc.f a).overlaps mode (.d b) = (mode != .separate && FReg.double a == b) := rfl

theorem Loc.same_refl (l : Loc) (s : State) : l.same s s := by
  cases l <;> simp [Loc.same]

theorem Loc.same.symm (h : l.same s t) : l.same t s := by
  cases l <;> simp_all [Loc.same]

theorem Loc.same.trans (h : l.same s t) (h' : l.same t u) : l.same s u := by
  cases l <;> simp_all [Loc.same]

/-! ### Lanes -/

/-- The vector with the selected lanes of `value` and the other lanes of `old` (45_vfpu.md R372). -/
def Lanes.merge (lanes : Lanes) (old value : Vec4) : Vec4 :=
  Vec4.build fun k => if Lanes.has lanes k then value.lane k else old.lane k

theorem Vec4.lane_build (g : Nat → BitVec 32) {k : Nat} (hk : k < 4) : (Vec4.build g).lane k = g k := by
  match k, hk with
  | 0, _ | 1, _ | 2, _ | 3, _ => rfl

theorem Lanes.lane_merge (lanes : Lanes) (old value : Vec4) (k : Fin 4) :
    (Lanes.merge lanes old value).lane k = if Lanes.has lanes k then value.lane k else old.lane k :=
  Vec4.lane_build _ k.isLt

theorem Lanes.mem_selected {lanes : Lanes} {k : Fin 4} : k ∈ Lanes.selected lanes ↔ Lanes.has lanes k = true := by
  cases lanes <;> revert k <;> decide

/-- Lane x is always selected. -/
theorem Lanes.has_zero (lanes : Lanes) : Lanes.has lanes (0 : Fin 4) = true := by cases lanes <;> rfl

theorem mem_lanesOf {r : VReg} {lanes : Lanes} {k : Fin 4} (hk : Lanes.has lanes k = true) :
    Loc.v r k ∈ lanesOf r lanes :=
  List.mem_map_of_mem (Lanes.mem_selected.2 hk)

theorem mem_accLanes {lanes : Lanes} {k : Fin 4} (hk : Lanes.has lanes k = true) : Loc.acc k ∈ accLanes lanes :=
  List.mem_map_of_mem (Lanes.mem_selected.2 hk)

/-- Every lane of a vector register is a word of the one file (10_state.md R37). -/
theorem VReg.exists_word (q : VReg) (k : Fin 4) :
    ∃ n : FReg, VReg.float q k = n ∧ q = FReg.vector n ∧ k.val = n.val % 4 := by
  refine ⟨_, rfl, Fin.ext ?_, ?_⟩
  · simp only [FReg.vector, VReg.float]
    omega
  · simp only [VReg.float]
    omega

/-! ### Writes -/

/-- One write of an instruction: of a register, of the selected lanes of a vector, or of bytes. -/
inductive Write where
  | x (r : Reg) (value : XWord)
  | f (r : FReg) (value : BitVec 32)
  | d (r : DReg) (value : BitVec 64)
  | v (r : VReg) (lanes : Lanes) (value : Vec4)
  | acc (lanes : Lanes) (value : Vec4)
  | mem (sp : Space) (a : Nat) (bytes : List Byte)

/-- The locations that a write names. -/
def Write.locs : Write → List Loc
  | .x r _ => [.x r]
  | .f r _ => [.f r]
  | .d r _ => [.d r]
  | .v r lanes _ => lanesOf r lanes
  | .acc lanes _ => accLanes lanes
  | .mem sp a bytes => [.mem sp a bytes.length]

/-- The state after a write. -/
def Write.apply : Write → State → State
  | .x r value, s => s.setX r value
  | .f r value, s => s.setF r value
  | .d r value, s => s.setD r value
  | .v r lanes value, s => s.setLanes r lanes (Lanes.merge lanes (s.getV r) value)
  | .acc lanes value, s => s.setAcc (Lanes.merge lanes s.acc value)
  | .mem sp a bytes, s => s.setMem sp ((s.mem sp).writeBytes a bytes)

/-- The free values that a write takes. -/
def Write.ticks : Write → Nat
  | .f _ _ | .v _ _ _ => 4
  | .d _ _ => 6
  | .x _ _ | .acc _ _ | .mem _ _ _ => 0

/-- What a write leaves: everything but registers, accumulator and memories, and the count of free values. -/
theorem Write.apply_eq (w : Write) (s : State) :
    w.apply s = { s with
      x := (w.apply s).x, f := (w.apply s).f, d := (w.apply s).d, v := (w.apply s).v, acc := (w.apply s).acc
      isram := (w.apply s).isram, dsram := (w.apply s).dsram, cache := (w.apply s).cache, ram := (w.apply s).ram
      draws := s.draws + w.ticks } := by
  cases w with
  | mem sp a bytes => cases sp <;> rfl
  | _ => rfl

/-! ### What a write leaves -/

theorem Loc.same_setX (r : Reg) (value : XWord) (h : (Loc.x r).overlaps s.params.fprOverlay l = false) :
    l.same (s.setX r value) s := by
  cases l with
  | x q => exact State.getX_setX_of_ne _ _ _ _ fun e => by simp [Loc.overlaps_x, e] at h
  | mem => exact fun _ _ _ => rfl
  | _ => exact rfl

theorem Loc.same_setF (r : FReg) (value : BitVec 32) (h : (Loc.f r).overlaps s.params.fprOverlay l = false) :
    l.same (s.setF r value) s := by
  cases l with
  | f q => exact State.getF_setF_of_ne _ _ _ _ fun e => by simp [Loc.overlaps_f, e] at h
  | d q =>
    cases hm : s.params.fprOverlay with
    | separate => simp [Loc.same, State.getD, hm, doublesAfterFloat]
    | unstated | shared =>
      rw [Loc.overlaps_f_d, hm] at h
      exact State.getD_setF_of_ne _ _ _ _ fun e => by simp [show FReg.double r = q from Fin.ext e.symm] at h
  | v q k =>
    change ((s.setF r value).getV q).lane k = (s.getV q).lane k
    cases hm : s.params.fprOverlay with
    | separate => simp [State.getV, hm, vectorsAfterFloat]
    | unstated =>
      rw [hm] at h
      rw [State.getV_setF_of_ne _ _ _ _ fun e => beq_eq_false_iff_ne.1 h (Fin.ext e.symm)]
    | shared lowFirst =>
      rw [hm] at h
      have hne : r ≠ VReg.float q k := beq_eq_false_iff_ne.1 h
      obtain ⟨n, hn, rfl, hk⟩ := VReg.exists_word q k
      have hlane := lane_vectorsAfterFloat lowFirst s.v r n value s.draws
      rw [hn] at hne
      rwa [if_neg hne.symm, ← hm, ← hk] at hlane
  | mem => exact fun _ _ _ => rfl
  | _ => exact rfl

theorem Loc.same_setD (r : DReg) (value : BitVec 64) (h : (Loc.d r).overlaps s.params.fprOverlay l = false) :
    l.same (s.setD r value) s := by
  cases l with
  | f q =>
    rw [Loc.overlaps_comm] at h
    cases hm : s.params.fprOverlay with
    | separate => simp [Loc.same, State.getF, hm, floatsAfterDouble]
    | unstated | shared =>
      rw [Loc.overlaps_f_d, hm] at h
      exact State.getF_setD_of_ne _ _ _ _ fun e => by simp [show FReg.double q = r from Fin.ext e] at h
  | d q => exact State.getD_setD_of_ne _ _ _ _ fun e => by simp [Loc.overlaps_d, e] at h
  | v q k =>
    change ((s.setD r value).getV q).lane k = (s.getV q).lane k
    cases hm : s.params.fprOverlay with
    | separate => simp [State.getV, hm, vectorsAfterDouble]
    | unstated =>
      rw [hm] at h
      rw [State.getV_setD_of_ne _ _ _ _ fun e => beq_eq_false_iff_ne.1 h (Fin.ext e.symm)]
    | shared lowFirst =>
      rw [hm] at h
      have hne : r ≠ FReg.double (VReg.float q k) := beq_eq_false_iff_ne.1 h
      obtain ⟨n, hn, rfl, hk⟩ := VReg.exists_word q k
      have hlane := lane_vectorsAfterDouble lowFirst s.v r n value s.draws
      rw [hn] at hne
      rwa [if_neg fun e => hne (Fin.ext e.symm), ← hm, ← hk] at hlane
  | mem => exact fun _ _ _ => rfl
  | _ => exact rfl

theorem Loc.same_writeLanes (r : VReg) (lanes : Lanes) (value : Vec4)
    (h : ∀ m ∈ lanesOf r lanes, m.overlaps s.params.fprOverlay l = false) :
    l.same ((Write.v r lanes value).apply s) s := by
  have hlane (k : Fin 4) (hk : Lanes.has lanes k = true) : (Loc.v r k).overlaps s.params.fprOverlay l = false :=
    h _ (mem_lanesOf hk)
  have hx := hlane 0 (Lanes.has_zero lanes)
  cases l with
  | f q =>
    cases hm : s.params.fprOverlay with
    | separate => simp [Loc.same, Write.apply, State.getF, hm, floatsAfterLanes]
    | unstated =>
      rw [hm] at hx
      exact State.getF_setLanes_of_ne _ _ _ _ _ fun e => beq_eq_false_iff_ne.1 hx (Fin.ext e)
    | shared lowFirst =>
      have hfloat := getElem_floatsAfterLanes lowFirst s.f r lanes q (Lanes.merge lanes (s.getV r) value) s.draws
      rw [if_neg, ← hm] at hfloat
      · exact hfloat
      · rintro ⟨hr, hk⟩
        have hover := hlane ⟨q.val % 4, by omega⟩ (decide_eq_true hk)
        rw [hm] at hover
        refine beq_eq_false_iff_ne.1 hover (Fin.ext ?_)
        simp only [VReg.float]
        omega
  | d q =>
    cases hm : s.params.fprOverlay with
    | separate => simp [Loc.same, Write.apply, State.getD, hm, doublesAfterLanes]
    | unstated =>
      rw [hm] at hx
      exact State.getD_setLanes_of_ne _ _ _ _ _ fun e => beq_eq_false_iff_ne.1 hx (Fin.ext e)
    | shared lowFirst =>
      change (doublesAfterLanes s.params.fprOverlay s.d r lanes _ s.draws)[q] = s.d[q]
      rw [hm]
      refine getElem_foldl_of_kept _ q _ _ fun d k hk => doublesAfterFloat_of_ne _ _ _ _ _ _ fun e => ?_
      have hover := hlane k (Lanes.mem_selected.1 hk)
      rw [hm] at hover
      exact beq_eq_false_iff_ne.1 hover (Fin.ext e)
  | v q k =>
    change (((Write.v r lanes value).apply s).getV q).lane k = (s.getV q).lane k
    by_cases hq : q = r
    · subst hq
      have hk : ¬Lanes.has lanes k = true := fun hk => by
        have hover := hlane k hk
        simp [Loc.overlaps_v] at hover
      rw [Write.apply, State.getV_setLanes_self, Lanes.lane_merge, if_neg hk]
    · rw [Write.apply, State.getV_setLanes_of_ne _ _ _ _ _ hq]
  | mem => exact fun _ _ _ => rfl
  | _ => exact rfl

theorem Loc.same_writeAcc (lanes : Lanes) (value : Vec4)
    (h : ∀ m ∈ accLanes lanes, m.overlaps s.params.fprOverlay l = false) :
    l.same ((Write.acc lanes value).apply s) s := by
  cases l with
  | acc k =>
    have hk : ¬Lanes.has lanes k = true := fun hk => by
      have hover := h _ (mem_accLanes hk)
      simp [Loc.overlaps_acc] at hover
    exact (Lanes.lane_merge ..).trans (if_neg hk)
  | mem => exact fun _ _ _ => rfl
  | _ => exact rfl

theorem Loc.same_writeBytes (sp : Space) (a : Nat) (bytes : List Byte)
    (h : (Loc.mem sp a bytes.length).overlaps s.params.fprOverlay l = false) :
    l.same ((Write.mem sp a bytes).apply s) s := by
  cases l with
  | mem sp' b n =>
    intro c hb hn
    by_cases hio : sp = .iosram
    · subst hio
      rfl
    rw [Write.apply, State.byteAt_setMem _ _ _ _ _ hio]
    split
    · subst sp'
      rw [Memory.get?_writeBytes_of_outside]
      · rfl
      · simp only [Loc.overlaps_mem, beq_self_eq_true, Bool.true_and] at h
        by_contra hc
        exact Bool.eq_false_iff.1 h (rangesOverlap_iff.2 ⟨c, by omega, hb, hn⟩)
    · rfl
  | _ => cases sp <;> exact rfl

/-- A write leaves every location that those it names do not overlap. -/
theorem Write.apply_same (w : Write) (h : ∀ m ∈ w.locs, m.overlaps s.params.fprOverlay l = false) :
    l.same (w.apply s) s := by
  cases w with
  | x => exact Loc.same_setX _ _ (h _ List.mem_cons_self)
  | f => exact Loc.same_setF _ _ (h _ List.mem_cons_self)
  | d => exact Loc.same_setD _ _ (h _ List.mem_cons_self)
  | v => exact Loc.same_writeLanes _ _ _ h
  | acc => exact Loc.same_writeAcc _ _ h
  | mem => exact Loc.same_writeBytes _ _ _ (h _ List.mem_cons_self)

/-! ### What a write makes of the same -/

/-- Two vectors that agree at an element, of which the same one is replaced. -/
theorem getElem_set_congr {α β : Type} {n : Nat} (g : α → β) {v v' : Vector α n} {a a' : α} (r : Fin n) {q : Fin n}
    (h : g v[q] = g v'[q]) (ha : r = q → g a = g a') : g (v.set r a)[q] = g (v'.set r a')[q] := by
  simp only [Fin.getElem_fin, Vector.getElem_set] at h ⊢
  split
  · exact ha (Fin.ext ‹_›)
  · exact h

/-- Folds of which every step makes the same of an element. -/
theorem getElem_foldl_congr {α β : Type} {n : Nat} {step step' : Vector α n → β → Vector α n} (q : Fin n)
    {ks : List β} (h : ∀ v v', ∀ k ∈ ks, v[q] = v'[q] → (step v k)[q] = (step' v' k)[q]) {v v' : Vector α n}
    (hv : v[q] = v'[q]) : (ks.foldl step v)[q] = (ks.foldl step' v')[q] := by
  induction ks generalizing v v' with
  | nil => exact hv
  | cons k ks ih =>
    exact ih (fun v v' j hj => h v v' j (List.mem_cons_of_mem k hj)) (h v v' k List.mem_cons_self hv)

variable {mode : FprOverlay} {counter : Nat}

theorem doublesAfterFloat_congr {d d' : Vector (BitVec 64) 64} {r : FReg} {value : BitVec 32} {q : DReg}
    (h : d[q] = d'[q]) :
    (doublesAfterFloat mode d r value counter)[q] = (doublesAfterFloat mode d' r value counter)[q] := by
  cases mode with
  | separate => exact h
  | unstated => exact getElem_set_congr id _ h fun _ => rfl
  | shared => exact getElem_set_congr id _ h fun e => by subst e; rw [h]

theorem vectorsAfterFloat_congr {v v' : Vector Vec4 32} {r : FReg} {value : BitVec 32} {q : VReg} {k : Fin 4}
    (h : v[q].lane k = v'[q].lane k) :
    (vectorsAfterFloat mode v r value counter)[q].lane k = (vectorsAfterFloat mode v' r value counter)[q].lane k := by
  cases mode with
  | separate => exact h
  | unstated => exact getElem_set_congr (Vec4.lane · k) _ h fun _ => rfl
  | shared =>
    refine getElem_set_congr (Vec4.lane · k) _ h fun e => ?_
    simp only [e, Vec4.lane_withLane _ _ _ _ k.isLt (Nat.mod_lt _ (by decide : 4 > 0)), h]

theorem floatsAfterDouble_congr {f f' : Vector (BitVec 32) 128} {r : DReg} {value : BitVec 64} {q : FReg}
    (h : f[q] = f'[q]) :
    (floatsAfterDouble mode f r value counter)[q] = (floatsAfterDouble mode f' r value counter)[q] := by
  cases mode with
  | separate => exact h
  | unstated | shared => exact getElem_set_congr id _ (getElem_set_congr id _ h fun _ => rfl) fun _ => rfl

theorem vectorsAfterDouble_congr {v v' : Vector Vec4 32} {r : DReg} {value : BitVec 64} {q : VReg} {k : Fin 4}
    (h : v[q].lane k = v'[q].lane k) :
    (vectorsAfterDouble mode v r value counter)[q].lane k = (vectorsAfterDouble mode v' r value counter)[q].lane k := by
  cases mode with
  | separate => exact h
  | unstated => exact getElem_set_congr (Vec4.lane · k) _ h fun _ => rfl
  | shared =>
    refine getElem_set_congr (Vec4.lane · k) _ h fun e => ?_
    have h0 : 2 * (r.val % 2) < 4 := by omega
    have h1 : 2 * (r.val % 2) + 1 < 4 := by omega
    simp only [e, Vec4.lane_withLane _ _ _ _ k.isLt h0, Vec4.lane_withLane _ _ _ _ k.isLt h1, h]

/-- Only the selected lanes are words of the other views. -/
theorem floatsAfterLanes_congr {f f' : Vector (BitVec 32) 128} {r : VReg} {lanes : Lanes} {value value' : Vec4}
    {q : FReg} (hv : ∀ k ∈ Lanes.selected lanes, value.lane k = value'.lane k) (h : f[q] = f'[q]) :
    (floatsAfterLanes mode f r lanes value counter)[q] = (floatsAfterLanes mode f' r lanes value' counter)[q] := by
  cases mode with
  | separate => exact h
  | unstated =>
    refine getElem_foldl_congr q (fun f f' k _ h => ?_) h
    exact getElem_set_congr id (VReg.float r k) h fun _ => rfl
  | shared =>
    refine getElem_foldl_congr q (fun f f' k hk h => ?_) h
    exact getElem_set_congr id (VReg.float r k) h fun _ => hv k hk

theorem doublesAfterLanes_congr {d d' : Vector (BitVec 64) 64} {r : VReg} {lanes : Lanes} {value value' : Vec4}
    {q : DReg} (hv : ∀ k ∈ Lanes.selected lanes, value.lane k = value'.lane k) (h : d[q] = d'[q]) :
    (doublesAfterLanes mode d r lanes value counter)[q] = (doublesAfterLanes mode d' r lanes value' counter)[q] := by
  cases mode with
  | separate => exact h
  | unstated => exact getElem_set_congr id _ (getElem_set_congr id _ h fun _ => rfl) fun _ => rfl
  | shared =>
    refine getElem_foldl_congr q (fun d d' k hk h => ?_) h
    simp only [hv k hk]
    exact doublesAfterFloat_congr h

/-- Two memories that agree at an address, where the same bytes are written. -/
theorem Memory.get?_writeBytes_congr {m m' : Memory} {a c : Nat} {bs : List Byte} (h : m.get? c = m'.get? c) :
    (m.writeBytes a bs).get? c = (m'.writeBytes a bs).get? c := by
  by_cases hc : c < a ∨ a + bs.length ≤ c
  · rw [Memory.get?_writeBytes_of_outside _ _ _ _ hc, Memory.get?_writeBytes_of_outside _ _ _ _ hc, h]
  · obtain ⟨k, rfl⟩ := Nat.exists_eq_add_of_le (show a ≤ c by omega)
    rw [Memory.get?_writeBytes _ _ _ _ (by omega), Memory.get?_writeBytes _ _ _ _ (by omega)]

/-- The merged lanes that are selected do not depend on the old value. -/
theorem Lanes.lane_merge_selected {lanes : Lanes} (old old' value : Vec4) {k : Fin 4} (hk : k ∈ Lanes.selected lanes) :
    (Lanes.merge lanes old value).lane k = (Lanes.merge lanes old' value).lane k := by
  rw [Lanes.lane_merge, Lanes.lane_merge, if_pos (Lanes.mem_selected.1 hk), if_pos (Lanes.mem_selected.1 hk)]

/-- Where two lanes are the same, so are the merged ones. -/
theorem Lanes.lane_merge_congr {lanes : Lanes} {old old' value : Vec4} {k : Fin 4} (h : old.lane k = old'.lane k) :
    (Lanes.merge lanes old value).lane k = (Lanes.merge lanes old' value).lane k := by
  rw [Lanes.lane_merge, Lanes.lane_merge, h]

/-- A write makes the same of a location that is the same, the parameters and the count of free values being equal. -/
theorem Write.apply_congr (w : Write) (hp : s.params = t.params) (hd : s.draws = t.draws) (h : l.same s t) :
    l.same (w.apply s) (w.apply t) := by
  cases l with
  | x q =>
    cases w with
    | x r value => exact getElem_set_congr id r h fun _ => rfl
    | mem sp => cases sp <;> exact h
    | _ => exact h
  | f q =>
    change (w.apply s).f[q] = (w.apply t).f[q]
    cases w with
    | f r value => exact getElem_set_congr id r h fun _ => rfl
    | d r value =>
      simp only [Write.apply, State.setD_f, hp, hd]
      exact floatsAfterDouble_congr h
    | v r lanes value =>
      simp only [Write.apply, State.setLanes_f, hp, hd]
      exact floatsAfterLanes_congr (fun k hk => Lanes.lane_merge_selected _ _ _ hk) h
    | mem sp => cases sp <;> exact h
    | _ => exact h
  | d q =>
    change (w.apply s).d[q] = (w.apply t).d[q]
    cases w with
    | f r value =>
      simp only [Write.apply, State.setF_d, hp, hd]
      exact doublesAfterFloat_congr h
    | d r value => exact getElem_set_congr id r h fun _ => rfl
    | v r lanes value =>
      simp only [Write.apply, State.setLanes_d, hp, hd]
      exact doublesAfterLanes_congr (fun k hk => Lanes.lane_merge_selected _ _ _ hk) h
    | mem sp => cases sp <;> exact h
    | _ => exact h
  | v q k =>
    change (w.apply s).v[q].lane k = (w.apply t).v[q].lane k
    cases w with
    | f r value =>
      simp only [Write.apply, State.setF_v, hp, hd]
      exact vectorsAfterFloat_congr h
    | d r value =>
      simp only [Write.apply, State.setD_v, hp, hd]
      exact vectorsAfterDouble_congr h
    | v r lanes value =>
      exact getElem_set_congr (Vec4.lane · k) r h fun e => Lanes.lane_merge_congr (by rw [e]; exact h)
    | mem sp => cases sp <;> exact h
    | _ => exact h
  | acc k =>
    change (w.apply s).acc.lane k = (w.apply t).acc.lane k
    cases w with
    | acc lanes value => exact Lanes.lane_merge_congr h
    | mem sp => cases sp <;> exact h
    | _ => exact h
  | mem sp b n =>
    intro c hb hn
    have hc : s.byteAt sp c = t.byteAt sp c := h c hb hn
    cases w with
    | mem sp' a bytes =>
      by_cases hio : sp' = .iosram
      · subst hio
        exact hc
      · rw [Write.apply, Write.apply, State.byteAt_setMem _ _ _ _ _ hio, State.byteAt_setMem _ _ _ _ _ hio]
        split
        · subst sp'
          exact Memory.get?_writeBytes_congr hc
        · exact hc
    | _ => exact hc
  | _ =>
    cases w with
    | mem sp => cases sp <;> exact h
    | _ => exact h

end Sys2Proof.Machine
end

section
/-! SUPPORT. What an instruction of slots 1 to 3 does is fixed by what it reads: its effect, as a function of the count
of free values and of the answers of IOSRAM alone (40_bundle.md R165). -/

namespace Sys2Proof.Machine

open Sys2Proof

variable {i : Instr} {s s' t : State} {l : Loc}

/-! ### Effects -/

/-- What an instruction does before it goes on to the bundle that follows: the free values it takes, whether it takes
an answer of IOSRAM, its access to IOSRAM, its writes (the last of them first), the transfer it starts, and whether it
ends the run. -/
structure Effect where
  ticks : Nat := 0
  answer : Bool := false
  event : Option IoEvent := none
  writes : List Write := []
  transfer : Option Transfer := none
  ends : Bool := false

/-- The part of an effect that is no write. -/
def Effect.begun (e : Effect) (s : State) : State :=
  { s with
    draws := s.draws + e.ticks
    ioInputs := if e.answer then s.ioInputs.tail else s.ioInputs
    ioLog := e.event.elim s.ioLog fun ev => s.ioLog ++ [ev]
    dmaq := e.transfer.elim s.dmaq fun tr => s.dmaq ++ [tr]
    status := if e.ends then .ended else s.status }

/-- The state after an effect. -/
def Effect.apply (e : Effect) (s : State) : State := e.writes.foldr Write.apply (e.begun s)

/-- The locations that an effect writes. -/
def Effect.footprint (e : Effect) : List Loc := e.writes.flatMap Write.locs

/-- What writes leave: everything but registers, accumulator and memories, and the count of free values. -/
theorem foldr_apply_eq (ws : List Write) (s : State) :
    ws.foldr Write.apply s = { s with
      x := (ws.foldr Write.apply s).x, f := (ws.foldr Write.apply s).f, d := (ws.foldr Write.apply s).d
      v := (ws.foldr Write.apply s).v, acc := (ws.foldr Write.apply s).acc, isram := (ws.foldr Write.apply s).isram
      dsram := (ws.foldr Write.apply s).dsram, cache := (ws.foldr Write.apply s).cache
      ram := (ws.foldr Write.apply s).ram, draws := s.draws + (ws.map Write.ticks).sum } := by
  induction ws with
  | nil => rfl
  | cons w ws ih =>
    rw [List.foldr_cons, Write.apply_eq, ih, List.map_cons, List.sum_cons]
    simp only [Nat.add_comm w.ticks, Nat.add_assoc]

/-- What an effect leaves, and what becomes of all but registers, accumulator and memories. -/
theorem Effect.apply_eq (e : Effect) (s : State) :
    e.apply s = { e.begun s with
      x := (e.apply s).x, f := (e.apply s).f, d := (e.apply s).d, v := (e.apply s).v, acc := (e.apply s).acc
      isram := (e.apply s).isram, dsram := (e.apply s).dsram, cache := (e.apply s).cache, ram := (e.apply s).ram
      draws := s.draws + e.ticks + (e.writes.map Write.ticks).sum } :=
  foldr_apply_eq e.writes (e.begun s)

theorem foldr_apply_same {ws : List Write}
    (h : ∀ m ∈ ws.flatMap Write.locs, m.overlaps s.params.fprOverlay l = false) :
    l.same (ws.foldr Write.apply s) s := by
  induction ws with
  | nil => exact Loc.same_refl l s
  | cons w ws ih =>
    rw [List.flatMap_cons, List.forall_mem_append] at h
    have hp : (ws.foldr Write.apply s).params = s.params := by rw [foldr_apply_eq]
    exact (w.apply_same (by rw [hp]; exact h.1)).trans (ih h.2)

theorem foldr_apply_congr {ws : List Write} (hp : s.params = t.params) (hd : s.draws = t.draws) (h : l.same s t) :
    l.same (ws.foldr Write.apply s) (ws.foldr Write.apply t) := by
  induction ws with
  | nil => exact h
  | cons w ws ih =>
    refine w.apply_congr ?_ ?_ ih
    · rw [foldr_apply_eq, foldr_apply_eq ws t, hp]
    · rw [foldr_apply_eq, foldr_apply_eq ws t, hd]

/-- Locations do not lie in what an effect does beside its writes. -/
theorem Effect.begun_same (e : Effect) (s : State) (l : Loc) : l.same (e.begun s) s := by
  cases l with
  | mem => exact fun _ _ _ => rfl
  | _ => exact rfl

/-- An effect leaves every location that its footprint does not overlap. -/
theorem Effect.apply_same (e : Effect) (h : ∀ m ∈ e.footprint, m.overlaps s.params.fprOverlay l = false) :
    l.same (e.apply s) s :=
  Loc.same.trans (foldr_apply_same h) (e.begun_same s l)

/-- An effect makes the same of a location that is the same, the parameters and the count of free values being equal. -/
theorem Effect.apply_congr (e : Effect) (hp : s.params = t.params) (hd : s.draws = t.draws) (h : l.same s t) :
    l.same (e.apply s) (e.apply t) :=
  foldr_apply_congr hp (congrArg (· + e.ticks) hd) (((e.begun_same s l).trans h).trans (e.begun_same t l).symm)

/-! ### What an instruction depends on -/

/-- The state `s'` is for an instruction as the state `s`: it has the same parameters, holds the same at what the
instruction reads and writes, and has the same transfers to race with, which the ALU does not look at. -/
structure Agrees (i : Instr) (s s' : State) : Prop where
  params : s'.params = s.params
  locs : ∀ l ∈ Instr.reads i s ++ Instr.writes i s, l.same s' s
  unordered : i.issueClass ≠ .alu → s'.unordered = s.unordered

theorem Agrees.refl (i : Instr) (s : State) : Agrees i s s := ⟨rfl, fun l _ => l.same_refl s, fun _ => rfl⟩

/-- What an instruction does at a state, and at every state that agrees with it: an effect that writes what the
footprint names, a function of the count of free values and the answers of IOSRAM. -/
structure Does (i : Instr) (s : State) (e : Nat → List (BitVec 64) → Effect) : Prop where
  footprint : ∀ draws inputs, (e draws inputs).footprint = Instr.writes i s
  ends : ∀ draws inputs, (e draws inputs).ends = Instr.endsRun i
  outcome : ∀ s', Agrees i s s' → exec i s' = .next ((e s'.draws s'.ioInputs).apply s').advance

section
variable (h : Agrees i s s')
include h

theorem Agrees.read {l : Loc} (hl : l ∈ Instr.reads i s) : l.same s' s := h.locs l (List.mem_append_left _ hl)

theorem Agrees.written {l : Loc} (hl : l ∈ Instr.writes i s) : l.same s' s := h.locs l (List.mem_append_right _ hl)

theorem Agrees.getX {r : Reg} (hr : Loc.x r ∈ Instr.reads i s) : s'.getX r = s.getX r := h.read hr

theorem Agrees.operand {r : Reg} (hr : Loc.x r ∈ Instr.reads i s) (size : Size) :
    s'.operand r size = s.operand r size := by
  rw [State.operand, h.getX hr, State.operand]

theorem Agrees.immExt {n : Nat} (m : Mnemonic) (value : BitVec n) : s'.immExt m value = s.immExt m value := by
  unfold State.immExt State.signsImm
  rw [h.params]

theorem Agrees.immOperand {n : Nat} (m : Mnemonic) (value : BitVec n) (size : Size) :
    s'.immOperand m value size = s.immOperand m value size := by
  rw [State.immOperand, h.immExt, State.immOperand]

theorem Agrees.immValue {n : Nat} (m : Mnemonic) (value : BitVec n) : s'.immValue m value = s.immValue m value := by
  unfold State.immValue State.signsImm
  rw [h.params]

theorem Agrees.effAddr {n : Nat} {base : Reg} (hr : Loc.x base ∈ Instr.reads i s) (m : Mnemonic) (value : BitVec n) :
    s'.effAddr m base value = s.effAddr m base value := by
  rw [State.effAddr, h.getX hr, h.immValue, State.effAddr]

theorem Agrees.lsxBase (source : Bool) : s'.lsxBase source = s.lsxBase source := by
  unfold State.lsxBase
  rw [h.params]

theorem Agrees.lane {r : VReg} {lanes : Lanes} (hr : ∀ l ∈ lanesOf r lanes, l ∈ Instr.reads i s) {k : Fin 4}
    (hk : Lanes.has lanes k = true) : (s'.getV r).lane k = (s.getV r).lane k :=
  h.read (hr _ (mem_lanesOf hk))

theorem Agrees.accLane {lanes : Lanes} (hr : ∀ l ∈ accLanes lanes, l ∈ Instr.reads i s) {k : Fin 4}
    (hk : Lanes.has lanes k = true) : s'.acc.lane k = s.acc.lane k :=
  h.read (hr _ (mem_accLanes hk))

theorem Agrees.sizeOf (sp : Space) : s'.sizeOf sp = s.sizeOf sp := by
  unfold State.sizeOf
  rw [h.params]

/-- The checks of an access depend on the parameters alone. -/
theorem Agrees.checkAccess (sp : Space) (a : Int) (n : Nat) : s'.checkAccess sp a n = s.checkAccess sp a n := by
  unfold State.checkAccess State.inSpace State.alignedFor
  rw [h.sizeOf, h.params]

theorem Agrees.readRaces (hi : i.issueClass ≠ .alu) (sp : Space) (a n : Nat) :
    s'.readRaces sp a n = s.readRaces sp a n := by
  rw [State.readRaces, h.unordered hi, State.readRaces]

theorem Agrees.writeRaces (hi : i.issueClass ≠ .alu) (sp : Space) (a n : Nat) :
    s'.writeRaces sp a n = s.writeRaces sp a n := by
  rw [State.writeRaces, h.unordered hi, State.writeRaces]

/-- A load of bytes that the instruction reads finds the same. -/
theorem Agrees.load (hi : i.issueClass ≠ .alu) {sp : Space} {a : Int} {n : Nat}
    (hr : Loc.mem sp a.toNat n ∈ Instr.reads i s) : s'.load sp a n = s.load sp a n := by
  have hbytes : (s'.mem sp).readBytes a.toNat n = (s.mem sp).readBytes a.toNat n := Memory.readBytes_congr (h.read hr)
  rw [State.load, State.load, h.checkAccess]
  cases hc : s.checkAccess sp a n with
  | fault | refused => rfl
  | next k =>
    obtain ⟨-, -, rfl⟩ := State.checkAccess_next.1 hc
    rw [andThen_next_left, andThen_next_left, h.readRaces hi, hbytes]

/-- A store that passes its checks passes them where the instruction reads the same. -/
theorem Agrees.store (hi : i.issueClass ≠ .alu) {sp : Space} {a : Int} {n v : Nat} (hs : s.store sp a n v = .next t) :
    s'.store sp a n v = .next ((Write.mem sp a.toNat (leBytes n v)).apply s') := by
  obtain ⟨hin, hal, hr, -⟩ := State.store_next hs
  have hc : s'.checkAccess sp a n = .next a.toNat := by
    rw [h.checkAccess]
    exact State.checkAccess_next.2 ⟨hin, hal, rfl⟩
  rw [State.store, hc, andThen_next_left, h.writeRaces hi, hr]
  rfl

end

end Sys2Proof.Machine
end

section
/-! SUPPORT. The effect of every data instruction, and of a WAIT that nothing holds (40_bundle.md R165, R166). -/

namespace Sys2Proof.Machine

open Sys2Proof

variable {i : Instr} {s s' t : State}

/-! ### Writes of results -/

/-- An instruction that takes free values and then writes one destination. -/
theorem does_of_write {n : Nat} (w : Nat → Write) (hw : ∀ d, (w d).locs = Instr.writes i s)
    (hr : Instr.endsRun i = false)
    (hx : ∀ s', Agrees i s s' → exec i s' = .next ((w s'.draws).apply (s'.tick n)).advance) :
    Does i s fun d _ => { ticks := n, writes := [w d] } where
  footprint d _ := (List.append_nil _).trans (hw d)
  ends _ _ := hr.symm
  outcome := hx

/-- Instructions that write an N-bit result to a general register (43_alu.md R285). -/
theorem writeResult_does {dst : Reg} {size : Size} {marked : Bool} (res : State → Option (BitVec (Size.bits size)))
    (hw : Instr.writes i s = [.x dst]) (hr : Instr.endsRun i = false)
    (hx : ∀ s', exec i s' = .next (s'.writeResult dst size marked (res s')).advance)
    (hres : ∀ s', Agrees i s s' → res s' = res s) : ∃ e, Does i s e := by
  refine ⟨_, does_of_write (n := 1) (fun d => .x dst (extendResult s.params.narrowUpper marked size (s.getX dst) d
    ((res s).getD (Config.draw (Size.bits size) d)))) (fun _ => hw.symm) hr fun s' h => ?_⟩
  have hdst : s'.getX dst = s.getX dst := h.written (l := .x dst) (by simp [hw])
  rw [hx, State.writeResult, hres s' h, h.params, hdst]
  rfl

theorem aluRrr_does {op : (n : Nat) → BitVec n → BitVec n → Option (BitVec n)} {marked : Bool} {dst left right : Reg}
    {size : Size} (hread : Instr.reads i s = [.x left, .x right]) (hw : Instr.writes i s = [.x dst])
    (hr : Instr.endsRun i = false) (hx : ∀ s', exec i s' = s'.aluRrr op marked dst left right size) :
    ∃ e, Does i s e :=
  writeResult_does (fun s => op _ (s.operand left size) (s.operand right size)) hw hr hx fun s' h => by
    simp only [h.operand (show Loc.x left ∈ _ by simp [hread]), h.operand (show Loc.x right ∈ _ by simp [hread])]

theorem aluRri_does {m : Mnemonic} {op : (n : Nat) → BitVec n → BitVec n → Option (BitVec n)} {marked : Bool}
    {dst left : Reg} {imm : BitVec 10} {size : Size} (hread : Instr.reads i s = [.x left])
    (hw : Instr.writes i s = [.x dst]) (hr : Instr.endsRun i = false)
    (hx : ∀ s', exec i s' = s'.aluRri m op marked dst left imm size) : ∃ e, Does i s e :=
  writeResult_does (fun s => op _ (s.operand left size) (s.immOperand m imm size)) hw hr hx fun s' h => by
    simp only [h.operand (show Loc.x left ∈ _ by simp [hread]), h.immOperand]

theorem aluRi_does {m : Mnemonic} {op : (n : Nat) → BitVec n → BitVec n → Option (BitVec n)} {marked : Bool}
    {dst : Reg} {imm : BitVec 16} {size : Size} (hread : Instr.reads i s = [.x dst])
    (hw : Instr.writes i s = [.x dst]) (hr : Instr.endsRun i = false)
    (hx : ∀ s', exec i s' = s'.aluRi m op marked dst imm size) : ∃ e, Does i s e :=
  writeResult_does (fun s => op _ (s.operand dst size) (s.immOperand m imm size)) hw hr hx fun s' h => by
    simp only [h.operand (show Loc.x dst ∈ _ by simp [hread]), h.immOperand]

/-- Instructions that write a float result (45_vfpu.md R371). -/
theorem writeFloat_does {dst : FReg} (res : State → Option (BitVec 32)) (hw : Instr.writes i s = [.f dst])
    (hr : Instr.endsRun i = false) (hx : ∀ s', exec i s' = .next (s'.writeFloat dst (res s')).advance)
    (hres : ∀ s', Agrees i s s' → res s' = res s) : ∃ e, Does i s e := by
  refine ⟨_, does_of_write (n := 1) (fun d => .f dst ((res s).getD (nan32 s.params.nanResult d))) (fun _ => hw.symm) hr
    fun s' h => ?_⟩
  rw [hx, State.writeFloat, hres s' h, h.params]
  rfl

/-- Instructions that write a double result (45_vfpu.md R371). -/
theorem writeDouble_does {dst : DReg} (res : State → Option (BitVec 64)) (hw : Instr.writes i s = [.d dst])
    (hr : Instr.endsRun i = false) (hx : ∀ s', exec i s' = .next (s'.writeDouble dst (res s')).advance)
    (hres : ∀ s', Agrees i s s' → res s' = res s) : ∃ e, Does i s e := by
  refine ⟨_, does_of_write (n := 1) (fun d => .d dst ((res s).getD (nan64 s.params.nanResult d))) (fun _ => hw.symm) hr
    fun s' h => ?_⟩
  rw [hx, State.writeDouble, hres s' h, h.params]
  rfl

theorem Vec4.build_congr {g h : Nat → BitVec 32} (hgh : ∀ k : Fin 4, g k = h k) : Vec4.build g = Vec4.build h := by
  unfold Vec4.build
  exact congr (congr (congr (congrArg Vec4.mk (hgh 0)) (hgh 1)) (hgh 2)) (hgh 3)

/-- The lanes of a result where they are selected, a quiet NaN for a NaN (45_vfpu.md R371). -/
def resultLanes (mode : NanResult) (counter : Nat) (res : Nat → Option (BitVec 32)) : Vec4 :=
  Vec4.build fun k => (res k).getD (nan32 mode (counter + k))

/-- A result is merged into the old lanes, and counts only where it is selected. -/
theorem mergeLanes_eq_merge {mode : NanResult} {counter : Nat} {lanes : Lanes} {old : Vec4}
    {res res' : Nat → Option (BitVec 32)} (h : ∀ k : Fin 4, Lanes.has lanes k = true → res k = res' k) :
    mergeLanes mode counter lanes old res = Lanes.merge lanes old (resultLanes mode counter res') := by
  refine Vec4.build_congr fun k => ?_
  split
  · rw [resultLanes, Vec4.lane_build _ k.isLt, h k ‹_›]
  · rfl

/-- Instructions that write lanes of a vector register (45_vfpu.md R372). -/
theorem writeLanes_does {dst : VReg} {lanes : Lanes} (res : State → Nat → Option (BitVec 32))
    (hw : Instr.writes i s = lanesOf dst lanes) (hr : Instr.endsRun i = false)
    (hx : ∀ s', exec i s' = .next (s'.writeLanes dst lanes (res s')).advance)
    (hres : ∀ s', Agrees i s s' → ∀ k : Fin 4, Lanes.has lanes k = true → res s' k = res s k) : ∃ e, Does i s e := by
  refine ⟨_, does_of_write (n := 4) (fun d => .v dst lanes (resultLanes s.params.nanResult d (res s)))
    (fun _ => hw.symm) hr fun s' h => ?_⟩
  rw [hx, State.writeLanes, mergeLanes_eq_merge (hres s' h), h.params]
  rfl

/-- Instructions that write lanes of the accumulator (45_vfpu.md R372). -/
theorem writeAcc_does {lanes : Lanes} (res : State → Nat → Option (BitVec 32))
    (hw : Instr.writes i s = accLanes lanes) (hr : Instr.endsRun i = false)
    (hx : ∀ s', exec i s' = .next (s'.writeAcc lanes (res s')).advance)
    (hres : ∀ s', Agrees i s s' → ∀ k : Fin 4, Lanes.has lanes k = true → res s' k = res s k) : ∃ e, Does i s e := by
  refine ⟨_, does_of_write (n := 4) (fun d => .acc lanes (resultLanes s.params.nanResult d (res s))) (fun _ => hw.symm)
    hr fun s' h => ?_⟩
  rw [hx, State.writeAcc, mergeLanes_eq_merge (hres s' h), h.params]
  rfl

theorem fixToFloat_does {dst : VReg} {src : Reg} {lanes : Lanes} {q : Nat} (hread : Instr.reads i s = [.x src])
    (hw : Instr.writes i s = lanesOf dst lanes) (hr : Instr.endsRun i = false)
    (hx : ∀ s', exec i s' = .next (s'.fixToFloat q dst src lanes).advance) : ∃ e, Does i s e :=
  writeLanes_does (fun s k => some (BitVec.ofNat 32 (binary32.ofInteger s.params q (fixLane (s.getX src) k).toInt)))
    hw hr hx fun s' h k _ => by simp only [h.params, h.getX (show Loc.x src ∈ _ by simp [hread])]

theorem mergeFix_congr {counter : Nat} {lanes : Lanes} {old : XWord} {res res' : Nat → Option (BitVec 16)}
    (h : ∀ k : Fin 4, Lanes.has lanes k = true → res k = res' k) :
    mergeFix counter lanes old res = mergeFix counter lanes old res' := by
  have hlane (k : Fin 4) : (if Lanes.has lanes k then (res k).getD (Config.draw 16 (counter + k)) else fixLane old k) =
      if Lanes.has lanes k then (res' k).getD (Config.draw 16 (counter + k)) else fixLane old k := by
    split
    · rw [h k ‹_›]
    · rfl
  exact congrArg₂ (· ++ ·) (congrArg₂ (· ++ ·) (congrArg₂ (· ++ ·) (hlane 3) (hlane 2)) (hlane 1)) (hlane 0)

theorem floatToFix_does {dst : Reg} {src : VReg} {lanes : Lanes} {q : Nat}
    (hread : Instr.reads i s = lanesOf src lanes) (hw : Instr.writes i s = [.x dst]) (hr : Instr.endsRun i = false)
    (hx : ∀ s', exec i s' = .next (s'.floatToFix q dst src lanes).advance) : ∃ e, Does i s e := by
  refine ⟨_, does_of_write (n := 4) (fun d => .x dst (mergeFix d lanes (s.getX dst) fun k =>
    binary32.toInteger s.params q 16 ((s.getV src).lane k).toNat)) (fun _ => hw.symm) hr fun s' h => ?_⟩
  have hdst : s'.getX dst = s.getX dst := h.written (l := .x dst) (by simp [hw])
  rw [hx, State.floatToFix, h.params, hdst,
    mergeFix_congr (res' := fun k => binary32.toInteger s.params q 16 ((s.getV src).lane k).toNat) fun k hk => by
      rw [h.lane (fun l hl => by rwa [hread]) hk]]
  rfl

/-! ### Loads and stores -/

/-- The write of the post-increment (42_lsu.md R257). -/
def incWrites (s : State) (base : Reg) (inc : Bool) (n : Nat) : List Write :=
  if inc then [.x base (s.getX base + BitVec.ofNat 64 (s.postIncBy n))] else []

theorem locs_incWrites (s : State) (base : Reg) (inc : Bool) (n : Nat) :
    (incWrites s base inc n).flatMap Write.locs = incremented base inc := by
  cases inc <;> rfl

/-- The post-increment is its write. -/
theorem Agrees.postInc (h : Agrees i s s') {base : Reg} (hb : Loc.x base ∈ Instr.reads i s) (inc : Bool) (n : Nat) :
    s'.postInc base inc n = (incWrites s base inc n).foldr Write.apply s' := by
  cases inc with
  | false => rfl
  | true =>
    change s'.setX base (s'.getX base + BitVec.ofNat 64 (s'.params.postInc.getD n)) = _
    rw [h.getX hb, h.params]
    rfl

/-- Loads: the bytes are read, the register is incremented, and the value is written (42_lsu.md R256, R257). -/
theorem load_does {sp : Space} {a : State → Int} {n : Nat} {base : Reg} {inc : Bool} (w : Nat → Write)
    (hc : i.issueClass = .load) (hread : Instr.reads i s = [.x base, .mem sp (a s).toNat n])
    (hw : ∀ v, Instr.writes i s = (w v).locs ++ incremented base inc) (hr : Instr.endsRun i = false)
    (hx : ∀ s', Agrees i s s' →
      exec i s' = andThen (s'.load sp (a s') n) fun v => .next ((w v).apply (s'.postInc base inc n)).advance)
    (ha : ∀ s', Agrees i s s' → a s' = a s) (ht : exec i s = .next t) : ∃ e, Does i s e := by
  rw [hx s (.refl i s)] at ht
  obtain ⟨v, hv, -⟩ := andThen_next.1 ht
  refine ⟨fun _ _ => { writes := w v :: incWrites s base inc n }, fun _ _ => ?_, fun _ _ => hr.symm, fun s' h => ?_⟩
  · rw [Effect.footprint, List.flatMap_cons, locs_incWrites, hw]
  · rw [hx s' h, ha s' h, h.load (by simp [hc]) (by simp [hread]), hv, andThen_next_left, h.postInc (by simp [hread])]
    rfl

/-- Integer loads (42_lsu.md R232, R258). -/
theorem loadInt_does {sp : Space} {data base : Reg} {a : State → Int} {size : Size} {inc : Bool}
    (hc : i.issueClass = .load) (hread : Instr.reads i s = [.x base, .mem sp (a s).toNat (Size.bytes size)])
    (hw : Instr.writes i s = .x data :: incremented base inc) (hr : Instr.endsRun i = false)
    (hx : ∀ s', Agrees i s s' → exec i s' = s'.loadInt sp data base (a s') size inc)
    (ha : ∀ s', Agrees i s s' → a s' = a s) (ht : exec i s = .next t) : ∃ e, Does i s e := by
  obtain ⟨-, -, hne, -⟩ := State.loadInt_next ((hx s (.refl i s)).symm.trans ht)
  refine load_does (fun v => .x data (extendLoad s.params.loadExt size (s.getX data) v)) hc hread (fun _ => hw) hr
    (fun s' h => ?_) ha ht
  have hdata : s'.getX data = s.getX data := h.written (l := .x data) (by simp [hw])
  rw [hx s' h, State.loadInt, h.params, hdata]
  simp only [hne, Bool.false_eq_true, if_false]
  rfl

/-- Stores: the bytes are written and the register is incremented (42_lsu.md R257). -/
theorem store_does {sp : Space} {a : Int} {n v : Nat} {base : Reg} {inc : Bool} (hc : i.issueClass = .store)
    (hb : Loc.x base ∈ Instr.reads i s) (hw : Instr.writes i s = .mem sp a.toNat n :: incremented base inc)
    (hr : Instr.endsRun i = false)
    (hx : ∀ s', Agrees i s s' → exec i s' = andThen (s'.store sp a n v) fun u => .next (u.postInc base inc n).advance)
    (ht : exec i s = .next t) : ∃ e, Does i s e := by
  rw [hx s (.refl i s)] at ht
  obtain ⟨u, hu, -⟩ := andThen_next.1 ht
  refine ⟨fun _ _ => { writes := .mem sp a.toNat (leBytes n v) :: incWrites s base inc n }, fun _ _ => ?_,
    fun _ _ => hr.symm, fun s' h => ?_⟩
  · rw [Effect.footprint, List.flatMap_cons, locs_incWrites, hw, Write.locs, leBytes_length]
    rfl
  · have hcomm : ((Write.mem sp a.toNat (leBytes n v)).apply s').postInc base inc n =
        (Write.mem sp a.toNat (leBytes n v)).apply (s'.postInc base inc n) := by
      cases sp <;> cases inc <;> rfl
    rw [hx s' h, h.store (by simp [hc]) hu, andThen_next_left, hcomm, h.postInc hb]
    rfl

/-- Integer stores (42_lsu.md R233). -/
theorem storeInt_does {sp : Space} {data base : Reg} {a : State → Int} {size : Size} {inc : Bool}
    (hc : i.issueClass = .store) (hread : Instr.reads i s = [.x data, .x base])
    (hw : Instr.writes i s = .mem sp (a s).toNat (Size.bytes size) :: incremented base inc)
    (hr : Instr.endsRun i = false)
    (hx : ∀ s', Agrees i s s' → exec i s' = s'.storeInt sp data base (a s') size inc)
    (ha : ∀ s', Agrees i s s' → a s' = a s) (ht : exec i s = .next t) : ∃ e, Does i s e :=
  store_does (v := (s.getX data).toNat) hc (by simp [hread]) hw hr
    (fun s' h => by rw [hx s' h, State.storeInt, ha s' h, h.getX (show Loc.x data ∈ _ by simp [hread])]) ht

/-- Stores of floats, doubles and vectors (42_lsu.md R242, R246, R250). -/
theorem storeWide_does {sp : Space} {base : Reg} {a v : State → Int} {n : Nat} {inc : Bool}
    (hc : i.issueClass = .store) (hb : Loc.x base ∈ Instr.reads i s)
    (hw : Instr.writes i s = .mem sp (a s).toNat n :: incremented base inc) (hr : Instr.endsRun i = false)
    (hx : ∀ s', exec i s' = s'.storeWide sp base (a s') n (v s').toNat inc)
    (ha : ∀ s', Agrees i s s' → a s' = a s ∧ v s' = v s) (ht : exec i s = .next t) : ∃ e, Does i s e :=
  store_does (v := (v s).toNat) hc hb hw hr
    (fun s' h => by rw [hx s', State.storeWide, (ha s' h).1, (ha s' h).2]) ht

/-! ### IOSRAM -/

/-- Outputs to IOSRAM (42_lsu.md R237, R238). -/
theorem outputIo_does {a : State → Int} {n : Nat} {v : State → Nat}
    (hw : Instr.writes i s = [.mem .iosram (a s).toNat n]) (hr : Instr.endsRun i = false)
    (hx : ∀ s', exec i s' = s'.outputIo (a s') n (v s'))
    (ha : ∀ s', Agrees i s s' → a s' = a s ∧ v s' = v s) (ht : exec i s = .next t) : ∃ e, Does i s e := by
  rw [hx] at ht
  obtain ⟨k, hk, -⟩ := andThen_next.1 ht
  obtain ⟨-, -, rfl⟩ := State.checkAccess_next.1 hk
  refine ⟨fun _ _ =>
    { event := some (.output (a s).toNat n (v s % 256 ^ n)), writes := [.mem .iosram (a s).toNat (leBytes n 0)] },
    fun _ _ => ?_, fun _ _ => hr.symm, fun s' h => ?_⟩
  · rw [hw]
    simp [Effect.footprint, Write.locs, leBytes_length]
  · rw [hx s', State.outputIo, (ha s' h).1, (ha s' h).2, h.checkAccess, hk]
    rfl

/-- IN: the answer depends on the count of free values and on the answers supplied (42_lsu.md R236). -/
theorem inp_does {data : Reg} {addr : BitVec 8} {size : Size} (ht : exec (.inp data addr size) s = .next t) :
    ∃ e, Does (.inp data addr size) s e := by
  obtain ⟨k, hk, -⟩ := andThen_next.1 ht
  refine ⟨fun d ins =>
    { ticks := 1, answer := true
      event := some (.input k (Size.bytes size)
        (State.ioAnswer { s with draws := d, ioInputs := ins } (Size.bytes size)))
      writes := [.x data (extendLoad s.params.loadExt size (s.getX data)
        (State.ioAnswer { s with draws := d, ioInputs := ins } (Size.bytes size)))] },
    fun _ _ => rfl, fun _ _ => rfl, fun s' h => ?_⟩
  have hdata : s'.getX data = s.getX data := h.written (l := .x data) (by simp [Instr.writes])
  change execInp data addr size s' = _
  rw [execInp, h.immValue, h.checkAccess, hk, andThen_next_left, h.params, hdata]
  rfl

/-! ### Transfers -/

/-- Transfer starts (44_agu.md R351). -/
theorem startAndAdvance_does {src dst : Space} {a b : State → Int} {len : State → Nat} (hc : i.issueClass = .agu)
    (hw : Instr.writes i s = []) (hr : Instr.endsRun i = false)
    (hx : ∀ s', exec i s' = s'.startAndAdvance src (a s') dst (b s') (len s'))
    (ha : ∀ s', Agrees i s s' → a s' = a s ∧ b s' = b s ∧ len s' = len s) (ht : exec i s = .next t) :
    ∃ e, Does i s e := by
  rw [hx] at ht
  obtain ⟨u, hu, -⟩ := State.startAndAdvance_next ht
  obtain ⟨h0, -⟩ | ⟨h0, hsrc, hdst, hrd, hrs, -⟩ := State.startTransfer_next hu
  · refine ⟨fun _ _ => {}, fun _ _ => hw.symm, fun _ _ => hr.symm, fun s' h => ?_⟩
    obtain ⟨hsa, hsb, hlen⟩ := ha s' h
    rw [hx s', hsa, hsb, hlen, State.startAndAdvance, State.startTransfer, if_pos h0]
    rfl
  · refine ⟨fun _ _ => { transfer := some ⟨src, (a s).toNat, dst, (b s).toNat, len s, []⟩ }, fun _ _ => hw.symm,
      fun _ _ => hr.symm, fun s' h => ?_⟩
    obtain ⟨hsa, hsb, hlen⟩ := ha s' h
    have hrange (sp : Space) (c : Int) : s'.rangeInSpace sp c (len s) = s.rangeInSpace sp c (len s) := by
      rw [State.rangeInSpace, h.sizeOf, State.rangeInSpace]
    have hagu : i.issueClass ≠ .alu := by simp [hc]
    rw [hx s', hsa, hsb, hlen, State.startAndAdvance, State.startTransfer, if_neg h0, hrange, hrange, hsrc, hdst,
      h.writeRaces hagu, h.readRaces hagu, hrd, hrs]
    rfl

theorem Agrees.directAddr (h : Agrees i s s') {r : Reg} (hr : Loc.x r ∈ Instr.reads i s) (m : Mnemonic)
    (base : BitVec 12) : s'.directAddr m r base = s.directAddr m r base := by
  rw [State.directAddr, h.effAddr hr, State.directAddr]

theorem Agrees.listAddr (h : Agrees i s s') {r : Reg} (hr : Loc.x r ∈ Instr.reads i s) :
    s'.listAddr r = s.listAddr r := by
  rw [State.listAddr, h.getX hr, State.listAddr]

theorem Agrees.listLen (h : Agrees i s s') (m : Mnemonic) (blocks : BitVec 12) :
    s'.listLen m blocks = s.listLen m blocks := by
  rw [State.listLen, h.immValue, State.listLen]

/-! ### Every data instruction -/

theorem Agrees.getF (h : Agrees i s s') {r : FReg} (hr : Loc.f r ∈ Instr.reads i s) : s'.getF r = s.getF r := h.read hr

theorem Agrees.getD (h : Agrees i s s') {r : DReg} (hr : Loc.d r ∈ Instr.reads i s) : s'.getD r = s.getD r := h.read hr

/-- The lanes of a vector that the instruction reads whole. -/
theorem Agrees.getV (h : Agrees i s s') {r : VReg} (hr : ∀ l ∈ lanesOf r .xyzw, l ∈ Instr.reads i s) :
    s'.getV r = s.getV r := by
  have hlane (k : Fin 4) : (s'.getV r).lane k = (s.getV r).lane k := h.lane hr (by revert k; decide)
  have hx := hlane 0
  have hy := hlane 1
  have hz := hlane 2
  have hw := hlane 3
  revert hx hy hz hw
  cases s'.getV r
  cases s.getV r
  rintro ⟨⟩ ⟨⟩ ⟨⟩ ⟨⟩
  rfl

/-- The inner product depends on the selected lanes alone (45_vfpu.md R387). -/
theorem lanePairs_congr {lanes : Lanes} {a a' b b' : Vec4}
    (ha : ∀ k : Fin 4, Lanes.has lanes k = true → a.lane k = a'.lane k)
    (hb : ∀ k : Fin 4, Lanes.has lanes k = true → b.lane k = b'.lane k) :
    lanePairs lanes a b = lanePairs lanes a' b' := by
  refine List.map_congr_left fun k hk => ?_
  have hlt : k < lanes.toField + 1 := List.mem_range.1 hk
  have hk4 : k < 4 := by cases lanes <;> simp only [Lanes.toField] at hlt <;> omega
  have hhas : Lanes.has lanes k = true := decide_eq_true (Nat.le_of_lt_succ hlt)
  rw [ha ⟨k, hk4⟩ hhas, hb ⟨k, hk4⟩ hhas]

/-- Every load that completes has an effect. -/
theorem exec_load_does (hc : i.issueClass = .load) (ht : exec i s = .next t) : ∃ e, Does i s e := by
  cases i with
  | ldm data base imm size inc =>
    exact loadInt_does (a := fun s => s.effAddr .ldm base imm) rfl rfl rfl rfl (fun _ _ => rfl)
      (fun _ h => h.effAddr (by simp [Instr.reads]) ..) ht
  | ldc data base imm size inc =>
    exact loadInt_does (a := fun s => s.effAddr .ldc base imm) rfl rfl rfl rfl (fun _ _ => rfl)
      (fun _ h => h.effAddr (by simp [Instr.reads]) ..) ht
  | ldmx data source imm size =>
    refine loadInt_does (base := s.lsxBase source) (a := fun s' => s'.effAddr .ldmx (s.lsxBase source) imm)
      (inc := false) rfl rfl rfl rfl (fun s' h => ?_) (fun _ h => h.effAddr (by simp [Instr.reads]) ..) ht
    change s'.loadInt .dsram data (s'.lsxBase source) (s'.effAddr .ldmx (s'.lsxBase source) imm) size false = _
    rw [h.lsxBase]
  | ldmv data base imm inc | ldcv data base imm inc =>
    exact load_does (a := fun s => s.effAddr _ base imm) (fun v => .v data .xyzw (Vec4.ofNat128 v)) rfl rfl
      (fun _ => rfl) rfl (fun _ _ => rfl) (fun _ h => h.effAddr (by simp [Instr.reads]) ..) ht
  | ldmf data base imm inc | ldcf data base imm inc =>
    exact load_does (a := fun s => s.effAddr _ base imm) (fun v => .f data (BitVec.ofNat 32 v)) rfl rfl
      (fun _ => rfl) rfl (fun _ _ => rfl) (fun _ h => h.effAddr (by simp [Instr.reads]) ..) ht
  | ldmd data base imm inc | ldcd data base imm inc =>
    exact load_does (a := fun s => s.effAddr _ base imm) (fun v => .d data (BitVec.ofNat 64 v)) rfl rfl
      (fun _ => rfl) rfl (fun _ _ => rfl) (fun _ h => h.effAddr (by simp [Instr.reads]) ..) ht
  | inp => exact inp_does ht
  | _ => cases hc

/-- Every store that completes has an effect. -/
theorem exec_store_does (hc : i.issueClass = .store) (ht : exec i s = .next t) : ∃ e, Does i s e := by
  cases i with
  | stm data base imm size inc =>
    exact storeInt_does (a := fun s => s.effAddr .stm base imm) rfl rfl rfl rfl (fun _ _ => rfl)
      (fun _ h => h.effAddr (by simp [Instr.reads]) ..) ht
  | stc data base imm size inc =>
    exact storeInt_does (a := fun s => s.effAddr .stc base imm) rfl rfl rfl rfl (fun _ _ => rfl)
      (fun _ h => h.effAddr (by simp [Instr.reads]) ..) ht
  | stmx data source imm size =>
    refine storeInt_does (base := s.lsxBase source) (a := fun s' => s'.effAddr .stmx (s.lsxBase source) imm)
      (inc := false) rfl rfl rfl rfl (fun s' h => ?_) (fun _ h => h.effAddr (by simp [Instr.reads]) ..) ht
    change s'.storeInt .dsram data (s'.lsxBase source) (s'.effAddr .stmx (s'.lsxBase source) imm) size false = _
    rw [h.lsxBase]
  | stmv data base imm inc | stcv data base imm inc =>
    exact storeWide_does (a := fun s => s.effAddr _ base imm) (v := fun s => ((s.getV data).toNat128 : Nat)) rfl
      (by simp [Instr.reads]) rfl rfl (fun _ => rfl) (fun _ h => ⟨h.effAddr (by simp [Instr.reads]) .., by
        rw [h.getV fun l hl => by simp [Instr.reads, hl]]⟩) ht
  | stmf data base imm inc | stcf data base imm inc =>
    exact storeWide_does (a := fun s => s.effAddr _ base imm) (v := fun s => (s.getF data).toNat) rfl
      (by simp [Instr.reads]) rfl rfl (fun _ => rfl) (fun _ h => ⟨h.effAddr (by simp [Instr.reads]) .., by
        rw [h.getF (by simp [Instr.reads])]⟩) ht
  | stmd data base imm inc | stcd data base imm inc =>
    exact storeWide_does (a := fun s => s.effAddr _ base imm) (v := fun s => (s.getD data).toNat) rfl
      (by simp [Instr.reads]) rfl rfl (fun _ => rfl) (fun _ h => ⟨h.effAddr (by simp [Instr.reads]) .., by
        rw [h.getD (by simp [Instr.reads])]⟩) ht
  | out data addr size =>
    exact outputIo_does (a := fun s => s.immValue .out addr) (v := fun s => (s.getX data).toNat) rfl rfl (fun _ => rfl)
      (fun _ h => ⟨h.immValue .., by rw [h.getX (by simp [Instr.reads])]⟩) ht
  | outi addr imm size =>
    exact outputIo_does (a := fun s => s.immValue .outi addr) (v := fun s => (s.immExt .outi imm).toNat) rfl rfl
      (fun _ => rfl) (fun _ h => ⟨h.immValue .., by rw [h.immExt]⟩) ht
  | _ => cases hc

/-- Every transfer start that completes has an effect. -/
theorem exec_agu_does (hc : i.issueClass = .agu) (hw : i ≠ .wait) (ht : exec i s = .next t) : ∃ e, Does i s e := by
  cases i with
  | wait => contradiction
  | lddma ramReg dsReg ramBase dsBase long =>
    exact startAndAdvance_does (a := fun s => s.directAddr .lddma ramReg ramBase)
      (b := fun s => s.directAddr .lddma dsReg dsBase) (len := fun _ => directLen long) rfl rfl rfl (fun _ => rfl)
      (fun _ h => ⟨h.directAddr (by simp [Instr.reads]) .., h.directAddr (by simp [Instr.reads]) .., rfl⟩) ht
  | stdma ramReg dsReg ramBase dsBase long =>
    exact startAndAdvance_does (a := fun s => s.directAddr .stdma dsReg dsBase)
      (b := fun s => s.directAddr .stdma ramReg ramBase) (len := fun _ => directLen long) rfl rfl rfl (fun _ => rfl)
      (fun _ h => ⟨h.directAddr (by simp [Instr.reads]) .., h.directAddr (by simp [Instr.reads]) .., rfl⟩) ht
  | lddmar other ramReg blocks | dmair other ramReg blocks =>
    exact startAndAdvance_does (a := fun s => (s.listAddr ramReg : Nat)) (b := fun s => (s.listAddr other : Nat))
      (len := fun s => s.listLen _ blocks) rfl rfl rfl (fun _ => rfl)
      (fun _ h => ⟨congrArg _ (h.listAddr (by simp [Instr.reads])), congrArg _ (h.listAddr (by simp [Instr.reads])),
        h.listLen ..⟩) ht
  | stdmar other ramReg blocks =>
    exact startAndAdvance_does (a := fun s => (s.listAddr other : Nat)) (b := fun s => (s.listAddr ramReg : Nat))
      (len := fun s => s.listLen _ blocks) rfl rfl rfl (fun _ => rfl)
      (fun _ h => ⟨congrArg _ (h.listAddr (by simp [Instr.reads])), congrArg _ (h.listAddr (by simp [Instr.reads])),
        h.listLen ..⟩) ht
  | _ => cases hc

/-- Every ALU instruction but XCHG has an effect. -/
theorem exec_alu_does (hc : i.issueClass = .alu) : ∃ e, Does i s e := by
  cases i with
  | add | sub | muls | mulu | divs | divu | and | or | xor | asl | lsl | asr | lsr =>
    exact aluRrr_does rfl rfl rfl fun _ => rfl
  | addi | subi | mulsi | mului | divsi | divui | andi | ori | xori | asli | lsli | asri | lsri =>
    exact aluRri_does rfl rfl rfl fun _ => rfl
  | addq | subq | mulsq | muluq | divsq | divuq | andq | orq | xorq | aslq | lslq | asrq | lsrq =>
    exact aluRi_does rfl rfl rfl fun _ => rfl
  | movei dst imm =>
    refine ⟨_, does_of_write (n := 0) (fun _ => .x dst (s.immExt .movei imm)) (fun _ => rfl) rfl fun s' h => ?_⟩
    rw [← h.immExt]
    rfl
  | nop fin =>
    cases fin with
    | false => exact ⟨fun _ _ => {}, fun _ _ => rfl, fun _ _ => rfl, fun _ _ => rfl⟩
    | true => exact ⟨fun _ _ => { ends := true }, fun _ _ => rfl, fun _ _ => rfl, fun _ _ => rfl⟩
  | _ => cases hc

/-- Every VFPU and VDIV instruction has an effect. -/
theorem exec_float_does (hc : i.issueClass = .vfpu ∨ i.issueClass = .vdiv) : ∃ e, Does i s e := by
  cases i with
  | faddVv dst left right lanes | fsubVv dst left right lanes | fmulVv dst left right lanes =>
    exact writeLanes_does _ rfl rfl (fun _ => rfl) fun s' h k hk => by
      simp only [h.params, h.lane (r := left) (fun l hl => by simp [Instr.reads, hl]) hk,
        h.lane (r := right) (fun l hl => by simp [Instr.reads, hl]) hk]
  | fmuladdVv dst left right lanes =>
    exact writeLanes_does _ rfl rfl (fun _ => rfl) fun s' h k hk => by
      simp only [h.params, h.lane (r := left) (fun l hl => by simp [Instr.reads, hl]) hk,
        h.lane (r := right) (fun l hl => by simp [Instr.reads, hl]) hk,
        h.lane (r := dst) (fun l hl => by simp [Instr.reads, hl]) hk]
  | faddVf dst left right lanes | fsubVf dst left right lanes | fmulVf dst left right lanes =>
    exact writeLanes_does _ rfl rfl (fun _ => rfl) fun s' h k hk => by
      simp only [h.params, h.lane (r := left) (fun l hl => by simp [Instr.reads, hl]) hk,
        h.getF (r := right) (by simp [Instr.reads])]
  | fmuladdVf dst left right lanes =>
    exact writeLanes_does _ rfl rfl (fun _ => rfl) fun s' h k hk => by
      simp only [h.params, h.lane (r := left) (fun l hl => by simp [Instr.reads, hl]) hk,
        h.lane (r := dst) (fun l hl => by simp [Instr.reads, hl]) hk, h.getF (r := right) (by simp [Instr.reads])]
  | fmulva vec float lanes =>
    exact writeAcc_does _ rfl rfl (fun _ => rfl) fun s' h k hk => by
      simp only [h.params, h.lane (r := vec) (fun l hl => by simp [Instr.reads, hl]) hk,
        h.getF (r := float) (by simp [Instr.reads])]
  | fmuladdva vec float lanes =>
    exact writeAcc_does _ rfl rfl (fun _ => rfl) fun s' h k hk => by
      simp only [h.params, h.lane (r := vec) (fun l hl => by simp [Instr.reads, hl]) hk,
        h.getF (r := float) (by simp [Instr.reads]), h.accLane (fun l hl => by simp [Instr.reads, hl]) hk]
  | fmuladdvao dst vec float lanes =>
    exact writeLanes_does _ rfl rfl (fun _ => rfl) fun s' h k hk => by
      simp only [h.params, h.lane (r := vec) (fun l hl => by simp [Instr.reads, hl]) hk,
        h.getF (r := float) (by simp [Instr.reads]), h.accLane (fun l hl => by simp [Instr.reads, hl]) hk]
  | fipr dst vec1 vec2 lanes =>
    exact writeFloat_does _ rfl rfl (fun _ => rfl) fun s' h => by
      have hpairs : lanePairs lanes (s'.getV vec1) (s'.getV vec2) = lanePairs lanes (s.getV vec1) (s.getV vec2) :=
        lanePairs_congr (fun k hk => h.lane (fun l hl => by simp [Instr.reads, hl]) hk)
          fun k hk => h.lane (fun l hl => by simp [Instr.reads, hl]) hk
      simp only [h.params, hpairs]
  | faddD dst left right | fsubD dst left right | fmulD dst left right | ddiv dst left right =>
    exact writeDouble_does _ rfl rfl (fun _ => rfl) fun s' h => by
      simp only [h.params, h.getD (r := left) (by simp [Instr.reads]), h.getD (r := right) (by simp [Instr.reads])]
  | fmuladdD dst left right =>
    exact writeDouble_does _ rfl rfl (fun _ => rfl) fun s' h => by
      simp only [h.params, h.getD (r := left) (by simp [Instr.reads]), h.getD (r := right) (by simp [Instr.reads]),
        h.getD (r := dst) (by simp [Instr.reads])]
  | cvtF2d dst src =>
    exact writeDouble_does _ rfl rfl (fun _ => rfl) fun s' h => by
      simp only [h.params, h.getF (r := src) (by simp [Instr.reads])]
  | cvtD2f dst src =>
    exact writeFloat_does _ rfl rfl (fun _ => rfl) fun s' h => by
      simp only [h.params, h.getD (r := src) (by simp [Instr.reads])]
  | itof0 | itof4 | itof8 | itof15 => exact fixToFloat_does rfl rfl rfl fun _ => rfl
  | ftoi0 | ftoi4 | ftoi8 | ftoi15 => exact floatToFix_does rfl rfl rfl fun _ => rfl
  | cvtI2f dst src size =>
    exact writeFloat_does _ rfl rfl (fun _ => rfl) fun s' h => by
      simp only [h.params, h.operand (r := src) (by simp [Instr.reads])]
  | cvtI2d dst src size =>
    exact writeDouble_does _ rfl rfl (fun _ => rfl) fun s' h => by
      simp only [h.params, h.operand (r := src) (by simp [Instr.reads])]
  | cvtF2i dst src size =>
    exact writeResult_does _ rfl rfl (fun _ => rfl) fun s' h => by
      simp only [h.params, h.getF (r := src) (by simp [Instr.reads])]
  | cvtD2i dst src size =>
    exact writeResult_does _ rfl rfl (fun _ => rfl) fun s' h => by
      simp only [h.params, h.getD (r := src) (by simp [Instr.reads])]
  | fdiv dst left right =>
    exact writeFloat_does _ rfl rfl (fun _ => rfl) fun s' h => by
      simp only [h.params, h.getF (r := left) (by simp [Instr.reads]), h.getF (r := right) (by simp [Instr.reads])]
  | fsqrt dst source1 source2 =>
    exact writeFloat_does _ rfl rfl (fun _ => rfl) fun s' h => by
      simp only [h.params, h.getF (r := sqrtSource s.params.sqrtOperand source1 source2) (by simp [Instr.reads])]
  | dsqrt dst source1 source2 =>
    exact writeDouble_does _ rfl rfl (fun _ => rfl) fun s' h => by
      simp only [h.params, h.getD (r := sqrtSource s.params.sqrtOperand source1 source2) (by simp [Instr.reads])]
  | movefi dst imm =>
    exact ⟨_, does_of_write (n := 0) (fun _ => .f dst (floatImm imm)) (fun _ => rfl) rfl fun _ _ => rfl⟩
  | movedi dst imm =>
    exact ⟨_, does_of_write (n := 0) (fun _ => .d dst (doubleImm imm)) (fun _ => rfl) rfl fun _ _ => rfl⟩
  | movevi dst imm =>
    exact ⟨_, does_of_write (n := 0) (fun _ => .v dst .xyzw (Vec4.build fun _ => vectorImm imm)) (fun _ => rfl) rfl
      fun _ _ => rfl⟩
  | _ => simp [Instr.issueClass] at hc

/-- Every data instruction that completes has an effect. -/
theorem exec_does (hd : Instr.isData i = true) (ht : exec i s = .next t) : ∃ e, Does i s e := by
  have hx : i ≠ .xchg := by rintro rfl; cases hd
  have hw : i ≠ .wait := by rintro rfl; cases hd
  have hc := Instr.isData_eq hx hw
  cases hi : i.issueClass with
  | bru => simp [hi, hd] at hc
  | xchg => cases i <;> simp [Instr.issueClass] at hi hx
  | load => exact exec_load_does hi ht
  | store => exact exec_store_does hi ht
  | agu => exact exec_agu_does hi hw ht
  | alu => exact exec_alu_does hi
  | vfpu => exact exec_float_does (.inl hi)
  | vdiv => exact exec_float_does (.inr hi)

/-- A WAIT with no transfer in flight and none left to order has no effect. -/
theorem wait_does (hq : s.dmaq = []) (hl : s.landed = []) : Does .wait s fun _ _ => {} where
  footprint _ _ := rfl
  ends _ _ := rfl
  outcome s' h := by
    have hu : s'.dmaq ++ s'.landed = [] := (h.unordered (by decide)).trans (by rw [State.unordered, hq, hl]; rfl)
    obtain ⟨hq', hl'⟩ := List.append_eq_nil_iff.1 hu
    have hset : s'.setLanded [] = s' := by rw [← hl']; rfl
    rw [exec_wait_of_idle hq', hset]
    rfl

end Sys2Proof.Machine
end

section
/-! SUPPORT. An instruction changes no location outside its footprint (40_bundle.md R166). -/

namespace Sys2Proof.Machine

open Sys2Proof

variable {i : Instr} {s t : State} {l : Loc}

/-- Locations do not lie in pc, the targets to come, the return addresses, the XCHG bit, the transfers, the ports, the
free values, the destinations settling, the script and the status. -/
theorem Loc.same_control (l : Loc) (s : State) {pc : Addr} {redirects : List Redirect} {rs : List Addr} {xchg : Bool}
    {dmaq landed : List Transfer} {draws : Nat} {ioInputs : List (BitVec 64)} {ioLog : List IoEvent}
    {unsettled : List Unsettled} {script : List EngineTurn} {status : Status} :
    l.same { s with
      pc := pc, redirects := redirects, rs := rs, xchg := xchg, dmaq := dmaq, landed := landed, draws := draws
      ioInputs := ioInputs, ioLog := ioLog, unsettled := unsettled, script := script, status := status } s := by
  cases l with
  | mem => exact fun _ _ _ => rfl
  | _ => exact rfl

/-- What an effect did is what `exec` answers. -/
theorem Does.next {e : Nat → List (BitVec 64) → Effect} (h : Does i s e) (ht : exec i s = .next t) :
    t = ((e s.draws s.ioInputs).apply s).advance :=
  Host.Outcome.next.inj (ht.symm.trans (h.outcome s (.refl i s)))

/-- A compare changes the flags that its footprint names. -/
theorem exec_compare_same (h : Instr.isCompare i = true) (ht : exec i s = .next t)
    (hl : ∀ m ∈ Instr.writes i s, m.overlaps s.params.fprOverlay l = false) : l.same t s := by
  have hframe := exec_compare_frame h ht
  cases l with
  | flagZ =>
    cases i with
    | cmp | cmpi | fcmp | fcmpi | dcmp | dcmpi => cases show true = false from hl .flagZ (by simp [Instr.writes])
    | _ => cases h
  | flagS =>
    cases i with
    | cmp | cmpi | fcmp | fcmpi | dcmp | dcmpi => cases show true = false from hl .flagS (by simp [Instr.writes])
    | _ => cases h
  | flagU =>
    cases hf : Instr.isFloatCompare i with
    | true =>
      obtain ⟨v, rfl, -⟩ := exec_compare_next h ht
      simp [Loc.same, State.compared, hf]
    | false =>
      cases i with
      | cmp | cmpi => cases show true = false from hl .flagU (by simp [Instr.writes])
      | fcmp | fcmpi | dcmp | dcmpi => cases hf
      | _ => cases h
  | mem => rw [hframe]; exact fun _ _ _ => rfl
  | _ => rw [hframe]; exact rfl

theorem exec_same (ht : exec i s = .next t)
    (hl : ∀ m ∈ Instr.writes i s, m.overlaps s.params.fprOverlay l = false) : l.same t s := by
  obtain h | h | h | rfl | rfl := Instr.kind_cases i
  · obtain ⟨e, he⟩ := exec_does h ht
    rw [he.next ht]
    refine (Loc.same_control l _).trans (Effect.apply_same _ ?_)
    rwa [he.footprint]
  · exact exec_compare_same h ht hl
  · rw [exec_transfer_frame h ht]
    exact l.same_control s
  · cases ht
    exact l.same_control s
  · obtain ⟨-, rfl⟩ | ⟨-, rfl⟩ := execWait_next ht
    · exact l.same_control s
    · exact l.same_refl _

end Sys2Proof.Machine

open Sys2Proof Sys2Proof.Machine

/-- Settles O9: data instructions by their effects, compares and control transfers by their frames. -/
theorem onlyTheFootprintIsWritten : Obligations.OnlyTheFootprintIsWritten :=
  fun _ _ _ _ => exec_same
end

section
/-! SUPPORT. The opcodes of a bundle that do not conflict do the same one after another as each alone on the state
before the bundle (40_bundle.md R165 to R168). -/

namespace Sys2Proof.Machine

open Sys2Proof

variable {before env w t u : State} {i j : Instr} {rest done : List Instr} {ts : List State} {l : Loc} {pc : Addr}

/-! ### Conflicts -/

theorem locsOverlap_iff {mode : FprOverlay} {a b : List Loc} :
    locsOverlap mode a b = true ↔ ∃ l ∈ a, ∃ m ∈ b, l.overlaps mode m = true := by
  simp [locsOverlap]

/-- Opcodes that do not conflict: what one writes the other neither reads nor writes. -/
theorem not_overlaps_of_noConflict (h : opcodesConflict before i j = false) {m : Loc}
    (hm : m ∈ Instr.writes i before) (hl : l ∈ Instr.reads j before ++ Instr.writes j before) :
    m.overlaps before.params.fprOverlay l = false := by
  simp only [opcodesConflict, Bool.or_eq_false_iff] at h
  obtain ⟨⟨⟨hww, hwr⟩, -⟩, -⟩ := h
  by_contra hne
  rw [Bool.not_eq_false] at hne
  obtain hl | hl := List.mem_append.1 hl
  · exact Bool.eq_false_iff.1 hwr (locsOverlap_iff.2 ⟨m, hm, l, hl, hne⟩)
  · exact Bool.eq_false_iff.1 hww (locsOverlap_iff.2 ⟨m, hm, l, hl, hne⟩)

theorem bundleConflicts_cons :
    bundleConflicts before (i :: rest) = false ↔
      (∀ j ∈ rest, opcodesConflict before i j = false) ∧ bundleConflicts before rest = false := by
  simp [bundleConflicts]

/-! ### What a commit of opcodes does -/

/-- The free values and the accesses to IOSRAM are numbered alike. -/
def State.NumberedAs (s t : State) : Prop := s.draws = t.draws ∧ s.ioInputs = t.ioInputs ∧ s.ioLog = t.ioLog

/-- The state `s` with free values, answers and accesses of IOSRAM numbered on from `env`. -/
def State.numberedFrom (s env : State) : State :=
  { s with draws := env.draws, ioInputs := env.ioInputs, ioLog := env.ioLog }

/-- Everything is kept but registers, accumulator, memories, transfers in flight, ports, free values and status. -/
def State.KeepsControl (s t : State) : Prop :=
  t = { s with
    x := t.x, f := t.f, d := t.d, v := t.v, acc := t.acc, isram := t.isram, dsram := t.dsram, cache := t.cache
    ram := t.ram, dmaq := t.dmaq, ioLog := t.ioLog, ioInputs := t.ioInputs, draws := t.draws, status := t.status }

theorem State.KeepsControl.trans (h : w.KeepsControl t) (h' : t.KeepsControl u) : w.KeepsControl u := by
  unfold State.KeepsControl at *
  rw [h', h]

theorem State.KeepsControl.params (h : w.KeepsControl t) : t.params = w.params := by rw [h]

theorem Effect.apply_draws (e : Effect) (s : State) :
    (e.apply s).draws = s.draws + e.ticks + (e.writes.map Write.ticks).sum := by rw [e.apply_eq]

theorem Effect.apply_ioInputs (e : Effect) (s : State) :
    (e.apply s).ioInputs = if e.answer then s.ioInputs.tail else s.ioInputs := by rw [e.apply_eq]; rfl

theorem Effect.apply_ioLog (e : Effect) (s : State) :
    (e.apply s).ioLog = e.event.elim s.ioLog fun ev => s.ioLog ++ [ev] := by rw [e.apply_eq]; rfl

theorem Effect.apply_dmaq (e : Effect) (s : State) :
    (e.apply s).dmaq = e.transfer.elim s.dmaq fun tr => s.dmaq ++ [tr] := by rw [e.apply_eq]; rfl

theorem Effect.apply_status (e : Effect) (s : State) :
    (e.apply s).status = if e.ends then .ended else s.status := by rw [e.apply_eq]; rfl

theorem Effect.apply_keepsControl (e : Effect) (s : State) : s.KeepsControl (e.apply s) := by
  have h := e.apply_eq s
  unfold State.KeepsControl
  rw [h]
  rfl

/-- What the commit of opcodes on the way through a bundle makes of the state `w`, and the states `ts` that each of
them leads to alone from the state before the bundle, numbered on from `env`. -/
structure Commits (before env : State) (rest : List Instr) (w t : State) (ts : List State) : Prop where
  control : w.KeepsControl t
  written : ∀ (k : Nat) (i : Instr) (u : State), rest[k]? = some i → ts[k]? = some u →
    ∀ l ∈ Instr.writes i before, l.same t u
  frame : ∀ l, (∀ i ∈ rest, ∀ m ∈ Instr.writes i before, m.overlaps before.params.fprOverlay l = false) → l.same t w
  counted : t.NumberedAs (ts.getLast?.getD env)
  queue : w.dmaq = before.dmaq → ∀ u, ts[0]? = some u → t.dmaq = u.dmaq
  idle : (∀ i ∈ rest, i.issueClass = .alu) → t.dmaq = w.dmaq
  status : t.status = if Instr.nop true ∈ rest then .ended else w.status

/-- A state on the way through a bundle, the opcodes `done` behind it and `rest` before it. -/
structure CommitReady (before env : State) (done rest : List Instr) (w : State) : Prop where
  params : w.params = before.params
  counted : w.NumberedAs env
  frame : ∀ l, (∀ i ∈ done, ∀ m ∈ Instr.writes i before, m.overlaps before.params.fprOverlay l = false) →
    l.same w before
  apart : ∀ j ∈ done, ∀ i ∈ rest, opcodesConflict before j i = false
  pairwise : bundleConflicts before rest = false
  does : ∀ i ∈ rest, ∃ e, Does i before e
  tail : ∀ i ∈ rest.tail, i.issueClass = .alu
  races : ∀ i ∈ rest.head?, i.issueClass ≠ .alu → w.unordered = before.unordered

/-- What an opcode to come reads and writes is as before the bundle. -/
theorem CommitReady.same (h : CommitReady before env done rest w) (hi : i ∈ rest)
    (hl : l ∈ Instr.reads i before ++ Instr.writes i before) : l.same w before :=
  h.frame l fun j hj _ hm => not_overlaps_of_noConflict (h.apart j hj i hi) hm hl

theorem Instr.endsRun_iff : Instr.endsRun i = true ↔ i = .nop true := by
  constructor
  · intro h
    unfold Instr.endsRun at h
    split at h
    · rfl
    · cases h
  · rintro rfl
    rfl

theorem Instr.transfer_of_alu (h : i.issueClass = .alu) (s : State) : Instr.transfer i s = none := by
  cases i with
  | lddma | stdma | lddmar | stdmar | dmair => cases h
  | _ => rfl

/-- The next opcode of a bundle: it does to the state on the way what it does alone to the state before the bundle. -/
theorem CommitReady.commit (h : CommitReady before env done (i :: rest) w) (pc : Addr) :
    ∃ v u, exec i (w.setPc pc) = .next v ∧ exec i (before.numberedFrom env) = .next u ∧
      Commits before env [i] w (v.setPc w.pc) [u] := by
  obtain ⟨e, he⟩ := h.does i List.mem_cons_self
  obtain ⟨hdraws, hinputs, hlog⟩ := h.counted
  have hown : Agrees i before (w.setPc pc) :=
    ⟨h.params, fun l hl => (l.same_control w).trans (h.same List.mem_cons_self hl), h.races i rfl⟩
  have halone : Agrees i before (before.numberedFrom env) :=
    ⟨rfl, fun l _ => l.same_control before, fun _ => rfl⟩
  have hu : exec i (before.numberedFrom env) =
      .next (Effect.apply (e env.draws env.ioInputs) (before.numberedFrom env)).advance :=
    he.outcome _ halone
  have hv : exec i (w.setPc pc) = .next (Effect.apply (e env.draws env.ioInputs) (w.setPc pc)).advance :=
    (he.outcome _ hown).trans (by rw [State.setPc_draws, State.setPc_ioInputs, hdraws, hinputs])
  have hfoot := he.footprint env.draws env.ioInputs
  have hends : (e env.draws env.ioInputs).ends = true ↔ Instr.nop true ∈ [i] := by
    rw [he.ends, Instr.endsRun_iff, List.mem_singleton, eq_comm]
  generalize e env.draws env.ioInputs = eff at hu hv hfoot hends
  refine ⟨_, _, hv, hu, ?_, ?_, ?_, ?_, ?_, ?_, ?_⟩
  · have hcontrol := eff.apply_keepsControl (w.setPc pc)
    rw [State.KeepsControl, hcontrol]
    rfl
  · rintro (_ | k) j u ⟨⟩ ⟨⟩ l hl
    have hsame : l.same (w.setPc pc) (before.numberedFrom env) :=
      ((l.same_control w).trans (h.same List.mem_cons_self (List.mem_append_right _ hl))).trans
        (l.same_control before).symm
    have happ : l.same (eff.apply (w.setPc pc)) (eff.apply (before.numberedFrom env)) :=
      Effect.apply_congr _ h.params hdraws hsame
    exact ((l.same_control _).trans happ).trans (l.same_control _).symm
  · intro l hl
    refine ((l.same_control _).trans (Effect.apply_same _ ?_)).trans (l.same_control w)
    rw [hfoot, State.setPc_params, h.params]
    exact hl i List.mem_cons_self
  · exact ⟨by simp [Effect.apply_draws, State.numberedFrom, hdraws],
      by simp [Effect.apply_ioInputs, State.numberedFrom, hinputs],
      by simp [Effect.apply_ioLog, State.numberedFrom, hlog]⟩
  · rintro hq u ⟨⟩
    simp [Effect.apply_dmaq, State.numberedFrom, hq]
  · intro halu
    have hkeep := exec_keeps_dmaq (Instr.transfer_of_alu (halu i List.mem_cons_self) _) hv
    exact hkeep
  · simp [Effect.apply_status, hends]

/-- After an opcode, the others come. -/
theorem CommitReady.tail_ready (h : CommitReady before env done (i :: rest) w)
    (hc : Commits before env [i] w t [u]) : CommitReady before u (i :: done) rest t where
  params := hc.control.params.trans h.params
  counted := hc.counted
  frame l hl := (hc.frame l fun j hj => List.mem_singleton.1 hj ▸ hl i List.mem_cons_self).trans
    (h.frame l fun j hj => hl j (List.mem_cons_of_mem i hj))
  apart j hj k hk := by
    obtain rfl | hj := List.mem_cons.1 hj
    · exact (bundleConflicts_cons.1 h.pairwise).1 k hk
    · exact h.apart j hj k (List.mem_cons_of_mem i hk)
  pairwise := (bundleConflicts_cons.1 h.pairwise).2
  does j hj := h.does j (List.mem_cons_of_mem i hj)
  tail j hj := h.tail j (List.mem_of_mem_tail hj)
  races j hj hne := absurd (h.tail j (List.mem_of_mem_head? hj)) hne

/-- One opcode and then the others. -/
theorem Commits.cons {v : State} (h : CommitReady before env done (i :: rest) w) (hi : Commits before env [i] w v [u])
    (hrest : Commits before u rest v t ts) : Commits before env (i :: rest) w t (u :: ts) where
  control := hi.control.trans hrest.control
  written := by
    rintro (_ | k) j u' hj hu l hl
    · cases hj
      cases hu
      refine (hrest.frame l fun j hj m hm => ?_).trans (hi.written 0 i u rfl rfl l hl)
      rw [Loc.overlaps_comm]
      exact not_overlaps_of_noConflict ((bundleConflicts_cons.1 h.pairwise).1 j hj) hl (List.mem_append_right _ hm)
    · exact hrest.written k j u' hj hu l hl
  frame l hl := (hrest.frame l fun j hj => hl j (List.mem_cons_of_mem i hj)).trans
    (hi.frame l fun j hj => List.mem_singleton.1 hj ▸ hl i List.mem_cons_self)
  counted := by
    rw [List.getLast?_cons]
    exact hrest.counted
  queue := by
    rintro hq u' ⟨⟩
    rw [hrest.idle h.tail]
    exact hi.queue hq u rfl
  idle halu := (hrest.idle fun j hj => halu j (List.mem_cons_of_mem i hj)).trans
    (hi.idle fun j hj => List.mem_singleton.1 hj ▸ halu i List.mem_cons_self)
  status := by
    rw [hrest.status, hi.status]
    by_cases h : Instr.nop true = i <;> simp [h]

/-- The opcodes of slots 1 to 3 of a bundle without conflict: each does what it does alone (40_bundle.md R165). -/
theorem commitRest_does (h : CommitReady before env done rest w) (pc : Addr) :
    ∃ t ts, commitRest pc rest w = .next t ∧ aloneFrom before env rest = .next ts ∧
      Commits before env rest w t ts := by
  induction rest generalizing w env done with
  | nil =>
    exact ⟨w, [], rfl, rfl, rfl, by simp, fun l _ => l.same_refl w, h.counted, by simp, fun _ => rfl, by simp⟩
  | cons i rest ih =>
    obtain ⟨v, u, hv, hu, hi⟩ := h.commit pc
    obtain ⟨t, ts, ht, hts, hrest⟩ := ih (h.tail_ready hi)
    refine ⟨t, u :: ts, commitRest_next.2 ⟨v, hv, ht⟩, ?_, hi.cons h hrest⟩
    exact andThen_next.2 ⟨u, hu, andThen_next.2 ⟨ts, hts, rfl⟩⟩

end Sys2Proof.Machine
end

section
/-! SUPPORT. The checks of a bundle, in the words of the statements, and the opcode that stops it (40_bundle.md R165 to
R170; 60_exceptions.md R446; 70_reset_and_hazards.md R483). -/

namespace Sys2Proof.Machine

open Sys2Proof

variable {i : Instr} {is : List Instr} {s t : State} {k : Nat}

/-! ### The state that opcodes read, and the end of a bundle -/

theorem hasWait_iff : hasWait is = true ↔ Instr.wait ∈ is := List.contains_iff_mem

/-- The opcodes read the state of `bundleReads`. -/
theorem State.readState_eq (s : State) (is : List Instr) : s.readState is = s.bundleReads is := by
  unfold State.readState State.bundleReads
  by_cases h : Instr.wait ∈ is
  · rw [if_pos (hasWait_iff.2 h), if_pos h]
    rfl
  · rw [if_neg fun hw => h (hasWait_iff.1 hw), if_neg h]

/-- The windows that are not over, one bundle shorter. -/
theorem map_filter_window {α β : Type} (bundles : α → Nat) (f : α → β) (l : List α) :
    (l.filter fun a => 1 < bundles a).map f = l.filterMap fun a => if bundles a ≤ 1 then none else some (f a) := by
  induction l with
  | nil => rfl
  | cons a l ih =>
    by_cases h : bundles a ≤ 1
    · rw [List.filter_cons_of_neg (by simpa using h), List.filterMap_cons, if_pos h, ih]
    · rw [List.filter_cons_of_pos (by simpa using h), List.filterMap_cons, if_neg h, List.map_cons, ih]

/-- A bundle ends as `afterBundle` says. -/
theorem State.endBundle_eq_afterBundle (s : State) (new : List Unsettled) : s.endBundle new = s.afterBundle new := by
  rw [State.endBundle, State.afterBundle, map_filter_window, map_filter_window, ← List.head?_filter]
  cases s.redirects.filter fun r => r.bundles ≤ 1 <;> rfl

/-- The destinations that begin to settle are those of `settling`. -/
theorem Instr.unsettledBy_eq_settling (i : Instr) (s : State) : Instr.unsettledBy i s = Instr.settling i s := by
  unfold Instr.unsettledBy Instr.settling
  cases h : s.params.latencyOf i.mnemonic with
  | zero => simp
  | succ k => exact (congrFun (List.filterMap_eq_map ..) _).symm

theorem Instr.readsUnsettled_iff : Instr.readsUnsettled i s = true ↔ Instr.readsEarly i s := by
  simp [Instr.readsUnsettled, Instr.readsEarly, locsOverlap_iff]

/-! ### The opcode that stops a bundle -/

theorem stopsAtAll_eq_false {r : Result State} : stopsAtAll r = false ↔ ∃ t, r = .next t := by
  cases r <;> simp [stopsAtAll]

theorem stopsFirst_iff {r : Result State} : stopsFirst r = true ↔ (∃ e, r = .fault e) ∨ r = .refused .dmaRace := by
  cases r <;> simp [stopsFirst]

/-- A slot that stops holds an opcode. -/
theorem exists_of_stoppingSlot (h : stoppingSlot s is = some k) : ∃ i, is[k]? = some i := by
  have hlt : k < is.length := by
    unfold stoppingSlot at h
    split at h
    · rename_i j hj
      cases h
      exact (List.findIdx?_eq_some_iff_getElem.1 hj).1
    · exact (List.findIdx?_eq_some_iff_getElem.1 h).1
  exact ⟨_, List.getElem?_eq_getElem hlt⟩

/-- Where no slot stops, no opcode does. -/
theorem exec_next_of_stoppingSlot (h : stoppingSlot s is = none) : ∀ i ∈ is, ∃ t, exec i s = .next t := by
  unfold stoppingSlot at h
  split at h
  · cases h
  · exact fun i hi => stopsAtAll_eq_false.1 (List.findIdx?_eq_none_iff.1 h i hi)

/-- Among opcodes none of which stops there is no slot that stops. -/
theorem stoppingSlot_eq_none (h : ∀ i ∈ is, ∃ t, exec i s = .next t) : stoppingSlot s is = none := by
  have hfirst : is.findIdx? (fun i => stopsFirst (exec i s)) = none := by
    refine List.findIdx?_eq_none_iff.2 fun i hi => ?_
    obtain ⟨t, ht⟩ := h i hi
    simp [ht, stopsFirst]
  rw [stoppingSlot, hfirst]
  exact List.findIdx?_eq_none_iff.2 fun i hi => stopsAtAll_eq_false.2 (h i hi)

/-- The slot that stops is the lowest with a fault or a race. -/
theorem stoppingSlot_of_first (hi : is[k]? = some i) (hs : stopsFirst (exec i s) = true)
    (hlow : ∀ j i', j < k → is[j]? = some i' → stopsFirst (exec i' s) = false) : stoppingSlot s is = some k := by
  obtain ⟨hk, rfl⟩ := List.getElem?_eq_some_iff.1 hi
  have hfind : is.findIdx? (fun i => stopsFirst (exec i s)) = some k :=
    List.findIdx?_eq_some_iff_getElem.2 ⟨hk, hs, fun j hj => by simp [hlow j _ hj (List.getElem?_eq_getElem _)]⟩
  rw [stoppingSlot, hfind]

/-- Where there is no fault and no race, the slot that stops is the lowest with another refusal. -/
theorem stoppingSlot_of_refused (hi : is[k]? = some i) (hs : stopsAtAll (exec i s) = true)
    (hfirst : ∀ i ∈ is, stopsFirst (exec i s) = false)
    (hlow : ∀ j i', j < k → is[j]? = some i' → stopsAtAll (exec i' s) = false) : stoppingSlot s is = some k := by
  obtain ⟨hk, rfl⟩ := List.getElem?_eq_some_iff.1 hi
  have hnone : is.findIdx? (fun i => stopsFirst (exec i s)) = none := List.findIdx?_eq_none_iff.2 hfirst
  have hfind : is.findIdx? (fun i => stopsAtAll (exec i s)) = some k :=
    List.findIdx?_eq_some_iff_getElem.2 ⟨hk, hs, fun j hj => by simp [hlow j _ hj (List.getElem?_eq_getElem _)]⟩
  rw [stoppingSlot, hnone]
  exact hfind

/-- A bundle that a slot stops stops as its opcode does. -/
theorem runBundle_of_stoppingSlot (h : stoppingSlot (s.bundleReads is) is = some k) (hi : is[k]? = some i) :
    runBundle s is = exec i (s.bundleReads is) := by
  simp only [runBundle, State.readState_eq, h, Option.bind_some, hi]

/-- A bundle that no opcode stops: the three rules, in their order, and the commit. -/
theorem runBundle_of_noStop (h : ∀ i ∈ is, ∃ t, exec i (s.bundleReads is) = .next t) :
    runBundle s is =
      if bundleConflicts (s.bundleReads is) is then .refused .bundleConflict
      else if is.any Instr.endsRun && is.head?.any (fun i => Instr.takesTransfer i (s.bundleReads is)) then
        .refused .endWithTransfer
      else if is.any fun i => Instr.readsUnsettled i (s.bundleReads is) then .refused .latencyHazard
      else andThen (commitBundle (s.bundleReads is) is) fun t =>
        .next (t.afterBundle (is.flatMap fun i => Instr.settling i (s.bundleReads is))) := by
  simp only [runBundle, State.readState_eq, stoppingSlot_eq_none h, Option.bind_none, State.endBundle_eq_afterBundle,
    Instr.unsettledBy_eq_settling]

/-- No opcode of a bundle that runs stops. -/
theorem exec_next_of_runBundle (h : runBundle s is = .next t) :
    ∀ i ∈ is, ∃ u, exec i (s.bundleReads is) = .next u := by
  cases hk : stoppingSlot (s.bundleReads is) is with
  | none => exact exec_next_of_stoppingSlot hk
  | some k =>
    obtain ⟨i, hi⟩ := exists_of_stoppingSlot hk
    have hstops := stoppingSlot_stops hk hi
    rw [← runBundle_of_stoppingSlot hk hi, h] at hstops
    cases hstops

/-- What a bundle that runs did: no conflict, its opcodes are committed on the state they read, and it ends. -/
theorem runBundle_next_afterBundle (h : runBundle s is = .next t) :
    bundleConflicts (s.bundleReads is) is = false ∧ ∃ u, commitBundle (s.bundleReads is) is = .next u ∧
      t = u.afterBundle (is.flatMap fun i => Instr.settling i (s.bundleReads is)) := by
  obtain ⟨hconflict, -, u, hu, rfl⟩ := runBundle_next h
  rw [State.readState_eq] at hconflict hu
  exact ⟨hconflict, u, hu, by simp only [State.endBundle_eq_afterBundle, Instr.unsettledBy_eq_settling,
    State.readState_eq]⟩

end Sys2Proof.Machine

open Sys2Proof Sys2Proof.Machine

/-- Settles O11: the slot that stops the bundle is the lowest of its group. -/
theorem lowestFaultStopsTheBundle : Obligations.LowestFaultStopsTheBundle := by
  intro s is k i _ hi before first
  have hfirst (j : Instr) : first j ↔ stopsFirst (exec j before) = true := stopsFirst_iff.symm
  refine ⟨fun hlow => ?_, fun hnone hlow r hr => ?_⟩
  · have hlow' (j : Nat) (i' : Instr) (hj : j < k) (hi' : is[j]? = some i') : stopsFirst (exec i' before) = false :=
      Bool.eq_false_iff.2 fun h => hlow j i' hj hi' ((hfirst i').2 h)
    have hstop (h : first i) : runBundle s is = exec i before :=
      runBundle_of_stoppingSlot (stoppingSlot_of_first hi ((hfirst i).1 h) hlow') hi
    exact ⟨fun e he => (hstop (.inl ⟨e, he⟩)).trans he, fun hr => (hstop (.inr hr)).trans hr⟩
  · refine (runBundle_of_stoppingSlot (stoppingSlot_of_refused hi ?_ ?_ ?_) hi).trans hr
    · rw [hr]
      rfl
    · exact fun i' hi' => Bool.eq_false_iff.2 fun h => hnone i' hi' ((hfirst i').2 h)
    · exact fun j i' hj hi' => stopsAtAll_eq_false.2 (hlow j i' hj hi')
end

section
/-! SUPPORT. Whole bundles: slot 0 on the state before the bundle, and the others after it (40_bundle.md R163, R165 to
R170). -/

namespace Sys2Proof.Machine

open Sys2Proof

variable {i : Instr} {is rest : List Instr} {s t u before : State} {l : Loc}

/-! ### What slots hold -/

/-- Every opcode stands where the slot table allows it. -/
def LegalBundle (is : List Instr) : Prop :=
  is.length ≤ 4 ∧ ∀ (k : Slot) i, is[k.val]? = some i → i.legalIn k = true

/-- Slot 0 holds no AGU instruction. -/
theorem LegalBundle.head (h : LegalBundle (i :: rest)) : i.issueClass ≠ .agu := by
  have hi : i.issueClass.legalIn 0 = true := h.2 0 i rfl
  intro hc
  rw [hc] at hi
  cases hi

theorem LegalBundle.getElem? (h : LegalBundle (i :: rest)) {j : Instr} {k : Nat} (hk : rest[k]? = some j) :
    ∃ hlt : k + 1 < 4, j.issueClass.legalIn ⟨k + 1, hlt⟩ = true := by
  obtain ⟨hlt, -⟩ := List.getElem?_eq_some_iff.1 hk
  have hlen : rest.length + 1 ≤ 4 := h.1
  exact ⟨by omega, h.2 ⟨k + 1, by omega⟩ j hk⟩

/-- Slots 1 to 3 take data instructions and WAIT. -/
theorem isData_of_legalIn {k : Slot} (hk : k ≠ 0) (h : i.legalIn k = true) : Instr.isData i = true ∨ i = .wait := by
  have hk' : (k == 0) = false := beq_eq_false_iff_ne.2 hk
  by_cases hw : i = .wait
  · exact .inr hw
  have hx : i ≠ .xchg := by
    rintro rfl
    cases hk'.symm.trans h
  rw [Instr.isData_eq hx hw]
  cases hc : i.issueClass with
  | bru =>
    rw [Instr.legalIn, hc] at h
    cases hk'.symm.trans h
  | _ => exact .inl rfl

theorem LegalBundle.isData (h : LegalBundle (i :: rest)) {j : Instr} (hj : j ∈ rest) :
    Instr.isData j = true ∨ j = .wait := by
  obtain ⟨k, hk⟩ := List.mem_iff_getElem?.1 hj
  obtain ⟨hlt, hl⟩ := h.getElem? hk
  exact isData_of_legalIn (k := ⟨k + 1, hlt⟩) (by simp [Fin.ext_iff]) hl

/-- Slots 2 and 3 hold ALU instructions. -/
theorem LegalBundle.tail (h : LegalBundle (i :: rest)) {j : Instr} (hj : j ∈ rest.tail) : j.issueClass = .alu := by
  obtain ⟨k, hk⟩ := List.mem_iff_getElem?.1 hj
  rw [List.getElem?_tail] at hk
  obtain ⟨hlt, hl⟩ := h.getElem? hk
  cases hc : j.issueClass with
  | alu => rfl
  | _ => simp [hc, IssueClass.legalIn, Fin.ext_iff] at hl

/-! ### What slot 0 leaves -/

theorem Instr.transfer_of_not_agu (h : i.issueClass ≠ .agu) (s : State) : Instr.transfer i s = none := by
  cases i with
  | lddma | stdma | lddmar | stdmar | dmair => exact absurd rfl h
  | _ => rfl

/-- What is no AGU instruction leaves the transfers, the destinations settling and the script, and of the status all
but the end of the run. -/
theorem exec_leaves (h : i.issueClass ≠ .agu) (ht : exec i s = .next t) :
    t.dmaq = s.dmaq ∧ t.landed = s.landed ∧ t.unsettled = s.unsettled ∧ t.script = s.script ∧
      t.status = if Instr.nop true = i then .ended else s.status := by
  refine ⟨exec_keeps_dmaq (Instr.transfer_of_not_agu h s) ht, ?_⟩
  obtain hd | hc | hj | rfl | rfl := Instr.kind_cases i
  · obtain ⟨e, he⟩ := exec_does hd ht
    have hends : (e s.draws s.ioInputs).ends = true ↔ Instr.nop true = i := by
      rw [he.ends, Instr.endsRun_iff, eq_comm]
    rw [he.next ht]
    have hcontrol := Effect.apply_keepsControl (e s.draws s.ioInputs) s
    refine ⟨?_, ?_, ?_, ?_⟩
    · rw [hcontrol]; rfl
    · rw [hcontrol]; rfl
    · rw [hcontrol]; rfl
    · rw [State.advance_status, Effect.apply_status]
      simp only [hends]
  · have hne : Instr.nop true ≠ i := by rintro rfl; cases hc
    rw [exec_compare_frame hc ht, if_neg hne]
    exact ⟨rfl, rfl, rfl, rfl⟩
  · have hne : Instr.nop true ≠ i := by rintro rfl; cases hj
    rw [exec_transfer_frame hj ht, if_neg hne]
    exact ⟨rfl, rfl, rfl, rfl⟩
  · cases ht
    exact ⟨rfl, rfl, rfl, rfl⟩
  · exact absurd rfl h

/-- The opcodes of a bundle without conflict that do not stop alone are committed, each as alone (40_bundle.md R165 to
R167). -/
theorem commitBundle_does (hlegal : LegalBundle (i :: rest))
    (hwait : Instr.wait ∈ i :: rest → before.dmaq = [] ∧ before.landed = [])
    (hnext : ∀ j ∈ i :: rest, ∃ t, exec j before = .next t)
    (hconflict : bundleConflicts before (i :: rest) = false) :
    ∃ u t ts, exec i before = .next u ∧ commitBundle before (i :: rest) = .next t ∧
      aloneFrom before before (i :: rest) = .next (u :: ts) ∧ Commits before u rest u t ts := by
  obtain ⟨u, hu⟩ := hnext i List.mem_cons_self
  obtain ⟨hapart, hpairwise⟩ := bundleConflicts_cons.1 hconflict
  obtain ⟨hq, hl, -⟩ := exec_leaves hlegal.head hu
  have hready : CommitReady before u [i] rest u :=
    { params := exec_keeps_params hu
      counted := ⟨rfl, rfl, rfl⟩
      frame := fun l h => exec_same hu (h i (List.mem_singleton_self i))
      apart := fun j hj => List.mem_singleton.1 hj ▸ hapart
      pairwise := hpairwise
      does := fun j hj => by
        obtain ⟨t, ht⟩ := hnext j (List.mem_cons_of_mem i hj)
        obtain hd | rfl := hlegal.isData hj
        · exact exec_does hd ht
        · obtain ⟨hq, hl⟩ := hwait (List.mem_cons_of_mem i hj)
          exact ⟨_, wait_does hq hl⟩
      tail := fun j => hlegal.tail
      races := fun _ _ _ => by rw [State.unordered, hq, hl, State.unordered] }
  obtain ⟨t, ts, ht, hts, hc⟩ := commitRest_does hready before.pc
  exact ⟨u, t, ts, hu, andThen_next.2 ⟨u, hu, ht⟩, andThen_next.2 ⟨u, hu, andThen_next.2 ⟨ts, hts, rfl⟩⟩, hc⟩

/-! ### The rules -/

/-- What the conflict rule says of two opcodes (40_bundle.md R166). -/
theorem opcodesConflict_iff {a b : Instr} :
    opcodesConflict s a b = true ↔
      (∃ l ∈ Instr.writes a s, ∃ m ∈ Instr.writes b s ++ Instr.reads b s, l.overlaps s.params.fprOverlay m = true) ∨
        (∃ l ∈ Instr.reads a s, ∃ m ∈ Instr.writes b s, l.overlaps s.params.fprOverlay m = true) ∨
          (a.issueClass = .agu ∧ b.issueClass = .agu) := by
  simp only [opcodesConflict, Bool.or_eq_true, locsOverlap_iff, Bool.and_eq_true, beq_iff_eq, List.mem_append,
    or_and_right, exists_or, and_or_left, or_assoc]

/-- A bundle conflicts when two opcodes of it do. -/
theorem bundleConflicts_iff :
    bundleConflicts s is = true ↔ ∃ (j k : Nat) (a b : Instr), j < k ∧ is[j]? = some a ∧ is[k]? = some b ∧
      opcodesConflict s a b = true := by
  induction is with
  | nil => simp [bundleConflicts]
  | cons i is ih =>
    rw [bundleConflicts, Bool.or_eq_true, List.any_eq_true, ih]
    constructor
    · rintro (⟨b, hb, hc⟩ | ⟨j, k, a, b, hjk, ha, hb, hc⟩)
      · obtain ⟨k, hk⟩ := List.mem_iff_getElem?.1 hb
        exact ⟨0, k + 1, i, b, Nat.succ_pos k, rfl, hk, hc⟩
      · exact ⟨j + 1, k + 1, a, b, Nat.succ_lt_succ hjk, ha, hb, hc⟩
    · rintro ⟨j, _ | k, a, b, hjk, ha, hb, hc⟩
      · omega
      · cases j with
        | zero =>
          cases ha
          exact .inl ⟨b, List.mem_of_getElem? hb, hc⟩
        | succ j => exact .inr ⟨j, k, a, b, by omega, ha, hb, hc⟩

theorem any_endsRun_iff : is.any Instr.endsRun = true ↔ Instr.nop true ∈ is := by
  simp [List.any_eq_true, Instr.endsRun_iff]

/-- A bundle of 2 or of 4 has a slot 0, and its opcodes read a state with the transfers that a WAIT ends in place. -/
theorem bundle_cases (hlen : is.length = if s.xchg then 4 else 2)
    (hlegal : ∀ (k : Slot) i, is[k.val]? = some i → i.legalIn k = true) (hwait : Instr.wait ∈ is → s.dmaq = []) :
    ∃ i rest, is = i :: rest ∧ LegalBundle is ∧
      (Instr.wait ∈ is → (s.bundleReads is).dmaq = [] ∧ (s.bundleReads is).landed = []) := by
  have hwait' (h : Instr.wait ∈ is) : (s.bundleReads is).dmaq = [] ∧ (s.bundleReads is).landed = [] :=
    ⟨hwait h, if_pos h⟩
  have hlegal' : LegalBundle is := ⟨by rw [hlen]; split <;> omega, hlegal⟩
  cases is with
  | nil => split at hlen <;> cases hlen
  | cons i rest => exact ⟨i, rest, rfl, hlegal', hwait'⟩

/-- A legal bundle without conflict whose opcodes do not stop alone is committed. -/
theorem exists_commitBundle (hlegal : LegalBundle is) (hwait : Instr.wait ∈ is → s.dmaq = [])
    (hnext : ∀ i ∈ is, ∃ t, exec i (s.bundleReads is) = .next t)
    (hconflict : bundleConflicts (s.bundleReads is) is = false) :
    ∃ t, commitBundle (s.bundleReads is) is = .next t := by
  have hwait' (h : Instr.wait ∈ is) : (s.bundleReads is).dmaq = [] ∧ (s.bundleReads is).landed = [] :=
    ⟨hwait h, if_pos h⟩
  cases is with
  | nil => exact ⟨_, rfl⟩
  | cons i rest =>
    obtain ⟨u, t, ts, -, ht, -⟩ := commitBundle_does hlegal hwait' hnext hconflict
    exact ⟨t, ht⟩

end Sys2Proof.Machine

open Sys2Proof Sys2Proof.Machine

/-- Settles O8: slot 0 on the state before the bundle, and then each opcode as alone. -/
theorem bundleReadsTheStateBeforeIt : Obligations.BundleReadsTheStateBeforeIt := by
  intro s t is hlen hlegal hwait hrun before
  obtain ⟨i, rest, rfl, hleg, hw⟩ := bundle_cases hlen hlegal hwait
  obtain ⟨hconflict, v, hv, rfl⟩ := runBundle_next_afterBundle hrun
  obtain ⟨u, v', ts, hu, hv', hts, hc⟩ := commitBundle_does hleg hw (exec_next_of_runBundle hrun) hconflict
  obtain rfl : v = v' := Host.Outcome.next.inj (hv.symm.trans hv')
  obtain ⟨hdmaq, hlanded, hunsettled, hscript, hstatus⟩ := exec_leaves hleg.head hu
  have hparams := exec_keeps_params hu
  refine ⟨u :: ts, hts, ?_, ?_, ?_, ?_, ?_, ?_, ?_, ?_, ?_, ?_⟩
  · rintro (_ | k) j u' hj hu' l hl
    · cases hj
      cases hu'
      refine (l.same_control v).trans (hc.frame l fun j hj m hm => ?_)
      rw [Loc.overlaps_comm]
      exact not_overlaps_of_noConflict ((bundleConflicts_cons.1 hconflict).1 j hj) hl (List.mem_append_right _ hm)
    · exact (l.same_control v).trans (hc.written k j u' hj hu' l hl)
  · intro l hl
    have hrest : l.same v u := hc.frame l fun j hj => hl j (List.mem_cons_of_mem i hj)
    have hslot0 : l.same u before := exec_same hu (hl i List.mem_cons_self)
    exact (((l.same_control v).trans hrest).trans hslot0).trans (l.same_control s)
  · rintro u' ⟨⟩
    rw [hc.control]
    exact ⟨rfl, rfl, rfl, rfl⟩
  · exact fun u' hu' => hc.queue hdmaq u' hu'
  · intro u' hu'
    rw [List.getLast?_cons] at hu'
    cases hu'
    exact hc.counted
  · rw [hc.control]
    simp only [State.afterBundle, hunsettled]
    rfl
  · rw [hc.control]
    exact hlanded
  · rw [hc.control]
    exact hscript
  · rw [hc.control]
    exact hparams
  · refine hc.status.trans ?_
    rw [hstatus]
    by_cases h : Instr.nop true = i <;> simp [h, State.bundleReads]

/-- Settles O10: the rules in their order, and a bundle that none refuses is committed. -/
theorem conflictingBundlesAreRefused : Obligations.ConflictingBundlesAreRefused := by
  intro s is hlen hlegal hwait before touch conflict endsJumping early hnext
  obtain ⟨i, rest, rfl, hleg, hw⟩ := bundle_cases hlen hlegal hwait
  have hconflict : bundleConflicts before (i :: rest) = true ↔ conflict := by
    rw [bundleConflicts_iff]
    simp only [opcodesConflict_iff]
    rfl
  have hjump : ((i :: rest).any Instr.endsRun && (i :: rest).head?.any fun i => Instr.takesTransfer i before) = true ↔
      endsJumping := by
    rw [Bool.and_eq_true, any_endsRun_iff]
    simp [endsJumping]
  have hearly : ((i :: rest).any fun i => Instr.readsUnsettled i before) = true ↔ early := by
    simp only [List.any_eq_true, Instr.readsUnsettled_iff]
    rfl
  rw [runBundle_of_noStop hnext]
  refine ⟨fun hc => if_pos (hconflict.2 hc), fun hc hj => ?_, fun hc hj he => ?_, fun hc hj he => ?_⟩
  · rw [if_neg (mt hconflict.1 hc), if_pos (hjump.2 hj)]
  · rw [if_neg (mt hconflict.1 hc), if_neg (mt hjump.1 hj), if_pos (hearly.2 he)]
  · obtain ⟨t, ht⟩ := exists_commitBundle hleg hwait hnext (Bool.eq_false_iff.2 (mt hconflict.1 hc))
    rw [if_neg (mt hconflict.1 hc), if_neg (mt hjump.1 hj), if_neg (mt hearly.1 he), ht]
    exact ⟨_, rfl⟩
end

section
/-! SUPPORT. What a slot decodes may stand there (40_bundle.md R163). -/

namespace Sys2Proof.Machine

open Sys2Proof

variable {i : Instr} {k : Slot} {w : Word}

theorem decodeBru_legal (h : decodeBru w = .ok i) : i.legalIn 0 = true := by
  simp only [decodeBru, decodeBranch, decodeJump, whenZero] at h
  (repeat' split at h) <;> cases h <;> rfl

theorem decodeAgu_legal (h : decodeAgu w = .ok i) : i.legalIn 1 = true := by
  simp only [decodeAgu, whenZero] at h
  (repeat' split at h) <;> cases h <;> rfl

theorem decodeLsu_legal (h : decodeLsu w = .ok i) : i.legalIn 1 = true := by
  simp only [decodeLsu, whenZero] at h
  (repeat' split at h) <;> cases h <;> rfl

theorem decodeVdiv_legal (h : decodeVdiv k w = .ok i) : i.legalIn k = true := by
  simp only [decodeVdiv, whenZero] at h
  split at h
  · cases h
  · rename_i hk
    rw [Decidable.not_not.1 hk]
    (repeat' split at h) <;> cases h <;> rfl

theorem decodeVfpuArith_class (h : decodeVfpuArith w = .ok i) : i.issueClass = .vfpu := by
  simp only [decodeVfpuArith, whenZero] at h
  (repeat' split at h) <;> cases h <;> rfl

theorem decodeFix_class (h : decodeFix w = .ok i) : i.issueClass = .vfpu := by
  simp only [decodeFix, whenZero] at h
  (repeat' split at h) <;> cases h <;> rfl

/-- In slots 0 and 1 the VFPU decodes to what it takes there; the VDIV checks its slot itself. -/
theorem decodeVfpu_legal (hk : k.val < 2) (h : decodeVfpu k w = .ok i) : i.legalIn k = true := by
  have hvfpu (hc : i.issueClass = .vfpu) : i.legalIn k = true := by
    rw [Instr.legalIn, hc]
    exact decide_eq_true hk
  simp only [decodeVfpu, whenZero] at h
  split at h
  · split at h
    · exact hvfpu (decodeVfpuArith_class h)
    · cases h
    · (repeat' split at h) <;> cases h <;> exact hvfpu rfl
    · split at h
      · exact hvfpu (decodeFix_class h)
      · (repeat' split at h) <;> cases h <;> exact hvfpu rfl
      · (repeat' split at h) <;> cases h <;> exact hvfpu rfl
      · exact decodeVdiv_legal h
  · cases h
    exact hvfpu rfl
  · cases h
    exact hvfpu rfl
  · cases h
    exact hvfpu rfl

/-- A check that passes found the slot to take the instruction. -/
theorem legal_of_checkSlot {e : DecodeError} {r : Except DecodeError Instr} (h : checkSlot k e r = .ok i) :
    i.legalIn k = true := by
  unfold checkSlot at h
  split at h
  · split at h
    · cases h
      assumption
    · cases h
  · cases h

theorem decode_legal (h : decode k w = .ok i) : i.legalIn k = true := by
  unfold decode at h
  split at h
  · exact decodeBru_legal h
  · exact decodeAgu_legal h
  · exact legal_of_checkSlot h
  · exact decodeLsu_legal h
  · exact legal_of_checkSlot h
  · exact decodeVfpu_legal (by decide) h
  · exact decodeVfpu_legal (by decide) h
  · cases h

end Sys2Proof.Machine

open Sys2Proof Sys2Proof.Machine

/-- Settles O3: what decodes is legal, and what is legal decodes from its encoding. -/
theorem slotRules : Obligations.SlotRules := by
  refine ⟨fun k i hwf => ?_, fun s words hx hf => ?_⟩
  · have hdecodes : (∃ w, decode k w = .ok i) ↔ i.issueClass.legalIn k = true :=
      ⟨fun ⟨_, hw⟩ => decode_legal hw, fun hl => ⟨_, encodeThenDecode i k hwf hl⟩⟩
    have hlow : k.val < 2 ↔ k = 0 ∨ k = 1 := by
      simp only [Fin.ext_iff]
      omega
    rw [hdecodes]
    cases i.issueClass <;> simp [IssueClass.legalIn, hlow]
  · obtain ⟨-, bs, -, rfl⟩ := State.fetch_next hf
    simp [wordsOfBytes, State.width, hx]
end

section
/-! SUPPORT. The core's turn: whose it is, what it fetches and decodes, and where it stops (40_bundle.md R161 to R164,
R173; 60_exceptions.md R441, R446). -/

namespace Sys2Proof.Machine

open Sys2Proof

variable {i : Instr} {is : List Instr} {s t : State} {w : Word} {words : List Word} {k : Nat} {pc : Addr}

/-! ### Whose turn it is -/

/-- The state at the core's turn: with transfers in flight the script's entry is taken (log 9). -/
def State.coreTurn (s : State) : State := if s.dmaq = [] then s else s.turnTaken

/-- Only the script moves on. -/
theorem State.coreTurn_eq (s : State) : s.coreTurn = { s with script := s.coreTurn.script } := by
  unfold State.coreTurn
  split
  · rfl
  · exact s.turnTaken_eq

@[simp] theorem State.coreTurn_dmaq (s : State) : s.coreTurn.dmaq = s.dmaq := by rw [State.coreTurn_eq]

@[simp] theorem State.coreTurn_params (s : State) : s.coreTurn.params = s.params := by rw [State.coreTurn_eq]

@[simp] theorem State.coreTurn_redirects (s : State) : s.coreTurn.redirects = s.redirects := by rw [State.coreTurn_eq]

@[simp] theorem State.coreTurn_unsettled (s : State) : s.coreTurn.unsettled = s.unsettled := by rw [State.coreTurn_eq]

@[simp] theorem State.coreTurn_fetchBundle (s : State) : s.coreTurn.fetchBundle = s.fetchBundle := by
  rw [State.coreTurn_eq]
  rfl

@[simp] theorem State.coreTurn_fetchRaces (s : State) : s.coreTurn.fetchRaces = s.fetchRaces := by
  rw [State.coreTurn_eq]
  rfl

/-- The step of a running machine when it is the core's turn. -/
theorem step_coreTurn (hrun : s.status = .running) (hturn : s.dmaq = [] ∨ s.engineTurn = false) :
    step s = s.coreTurn.coreMove := by
  rw [step_running hrun, stepRunning, State.coreTurn]
  by_cases hq : s.dmaq = []
  · rw [if_pos (List.isEmpty_iff.2 hq), if_pos hq]
  · rw [if_neg (mt List.isEmpty_iff.1 hq), if_neg hq, if_neg (Bool.eq_false_iff.1 (hturn.resolve_left hq))]

/-- The bundle that is fetched, when no WAIT holds it. -/
theorem step_of_fetchBundle (hrun : s.status = .running) (hturn : s.dmaq = [] ∨ s.engineTurn = false)
    (hf : s.fetchBundle = .next is) (hwait : Instr.wait ∈ is → s.dmaq = []) :
    step s = runFetched s.coreTurn is := by
  have hholds : ¬s.coreTurn.holds is = true := by
    simpa [State.holds, hasWait_iff] using hwait
  rw [step_coreTurn hrun hturn, State.coreMove, State.coreTurn_fetchBundle, hf, andThen_next_left, if_neg hholds]

/-- A fault of the fetch or of the decoder is the step's. -/
theorem step_of_fetchBundle_fault {e : Fault} (hrun : s.status = .running)
    (hturn : s.dmaq = [] ∨ s.engineTurn = false) (hf : s.fetchBundle = .fault e) : step s = .fault e := by
  rw [step_coreTurn hrun hturn, State.coreMove, State.coreTurn_fetchBundle, hf]
  rfl

/-- So is a refusal. -/
theorem step_of_fetchBundle_refused {e : Refusal} (hrun : s.status = .running)
    (hturn : s.dmaq = [] ∨ s.engineTurn = false) (hf : s.fetchBundle = .refused e) : step s = .refused e := by
  rw [step_coreTurn hrun hturn, State.coreMove, State.coreTurn_fetchBundle, hf]
  rfl

/-- While a WAIT holds the bundle, the engine moves (log 12). -/
theorem step_of_held (hrun : s.status = .running) (hturn : s.dmaq = [] ∨ s.engineTurn = false)
    (hf : s.fetchBundle = .next is) (hw : Instr.wait ∈ is) (hq : s.dmaq ≠ []) : step s = s.coreTurn.engineMove := by
  have hholds : s.coreTurn.holds is = true := by
    simpa [State.holds, hasWait_iff] using ⟨hw, hq⟩
  rw [step_coreTurn hrun hturn, State.coreMove, State.coreTurn_fetchBundle, hf, andThen_next_left, if_pos hholds]

/-- A read without a value has no slot when it is the fetch that stops (log 14). -/
theorem State.faultSlot_of_fetchBundle_fault {sp : Space} {a : Nat} {e : Fault} (h : s.fetchBundle = .fault e) :
    s.faultSlot (.uninitialisedRead sp a) = none := by
  rw [State.faultSlot, State.turnTaken_fetchBundle, h]
  split <;> rfl

theorem stepState_of_fault {e : Fault} (hrun : s.status = .running) (h : step s = .fault e) :
    stepState s = s.takeFault e (s.faultSlot e) := by
  rw [stepState, h]
  exact if_pos hrun

theorem stepState_of_refused {e : Refusal} (hrun : s.status = .running) (h : step s = .refused e) :
    stepState s = s.takeRefusal e := by
  rw [stepState, h]
  exact if_pos hrun

/-! ### Fetch and decode -/

theorem State.fetch_of_range (h : s.params.isramSize < s.pc.toNat + 4 * s.width) :
    s.fetch = .fault (.fetchFault s.pc) :=
  if_pos h

/-- The race of a fetch is a transfer to ISRAM that no WAIT has ordered and that writes the bundle. -/
theorem State.fetchRaces_iff :
    s.fetchRaces = true ↔ ∃ t ∈ s.dmaq ++ s.landed, 0 < t.len ∧ t.dst = .isram ∧
      t.dstAddr < s.pc.toNat + 4 * s.width ∧ s.pc.toNat < t.dstAddr + t.len := by
  have hwidth : 0 < s.width := by
    unfold State.width
    split <;> omega
  simp only [State.fetchRaces, State.readRaces, List.any_eq_true, Transfer.writes, Bool.and_eq_true, beq_iff_eq,
    rangesOverlap, decide_eq_true_eq]
  refine exists_congr fun t => and_congr_right fun _ => ⟨?_, ?_⟩
  · rintro ⟨hdst, hoverlap⟩
    exact ⟨by omega, hdst, by omega, by omega⟩
  · rintro ⟨hlen, hdst, hlo, hhi⟩
    exact ⟨hdst, by omega⟩

/-- A byte of the bundle without a value: the lowest is the one reported, after a race (log 13). -/
theorem State.fetch_of_hole {c : Nat} (hin : ¬s.params.isramSize < s.pc.toNat + 4 * s.width) (hlo : s.pc.toNat ≤ c)
    (hhi : c < s.pc.toNat + 4 * s.width) (hc : s.byteAt .isram c = none)
    (hlow : ∀ b, s.pc.toNat ≤ b → b < c → s.byteAt .isram b ≠ none) :
    s.fetch = if s.fetchRaces then .refused .fetchUnderDma else .fault (.uninitialisedRead .isram c) := by
  rw [State.fetch, if_neg hin]
  cases hread : s.isram.readBytes s.pc.toNat (4 * s.width) with
  | ok bs =>
    obtain ⟨hlen, hget⟩ := Memory.readBytes_ok hread
    have hheld := hget (c - s.pc.toNat) (by omega)
    rw [Nat.add_sub_cancel' hlo, List.getElem?_eq_getElem (by omega)] at hheld
    cases hc.symm.trans hheld
  | error e =>
    obtain ⟨hle, hlt, hnone, hheld⟩ := Memory.readBytes_error hread
    obtain rfl : e = c := by
      obtain h | h | h := Nat.lt_trichotomy e c
      · exact absurd hnone (hlow e hle h)
      · exact h
      · exact absurd hc (hheld c hlo h)
    rfl

/-- The decoder answers an instruction for every word. -/
theorem decodeFrom_next :
    decodeFrom pc k words = .next is ↔ is.length = words.length ∧
      ∀ m w, words[m]? = some w → ∃ i, is[m]? = some i ∧ decode (Fin.ofNat 4 (k + m)) w = .ok i := by
  induction words generalizing k is with
  | nil =>
    simp only [decodeFrom, Host.Outcome.next.injEq, List.length_nil, List.length_eq_zero_iff]
    exact ⟨fun h => ⟨h.symm, fun m w hw => by cases hw⟩, fun h => h.1.symm⟩
  | cons w words ih =>
    rw [decodeFrom]
    constructor
    · intro h
      split at h
      · cases h
      · rename_i i hi
        obtain ⟨is', his', h'⟩ := andThen_next.1 h
        cases h'
        obtain ⟨hlen, hdec⟩ := ih.1 his'
        refine ⟨by simp [hlen], ?_⟩
        rintro (_ | m) w' hw'
        · cases hw'
          exact ⟨i, rfl, hi⟩
        · obtain ⟨j, hj, hdj⟩ := hdec m w' hw'
          exact ⟨j, hj, by rwa [Nat.add_assoc, Nat.add_comm 1] at hdj⟩
    · rintro ⟨hlen, hdec⟩
      obtain ⟨i, hi, hdi⟩ := hdec 0 w rfl
      cases is with
      | nil => cases hi
      | cons i' is =>
        cases hi
        have hrest : decodeFrom pc (k + 1) words = .next is :=
          ih.2 ⟨Nat.succ.inj hlen, fun m w' hw' => by
            rw [Nat.add_assoc, Nat.add_comm 1]
            exact hdec (m + 1) w' hw'⟩
        rw [show decode (Fin.ofNat 4 k) w = .ok i from hdi]
        simp only [hrest]
        rfl

/-- The lowest Illegal word stops the decoder. -/
theorem decodeFrom_fault {e : DecodeError} {m : Nat} (hw : words[m]? = some w)
    (he : decode (Fin.ofNat 4 (k + m)) w = .error e)
    (hlow : ∀ j w', j < m → words[j]? = some w' → ∃ i, decode (Fin.ofNat 4 (k + j)) w' = .ok i) :
    decodeFrom pc k words = .fault (.illegalOpcode pc (k + m) w) := by
  induction words generalizing k m with
  | nil => cases hw
  | cons v words ih =>
    cases m with
    | zero =>
      cases hw
      rw [decodeFrom, show decode (Fin.ofNat 4 k) _ = .error e from he]
      rfl
    | succ m =>
      obtain ⟨i, hi⟩ := hlow 0 v (Nat.succ_pos m) rfl
      have hrest := ih (k := k + 1) (m := m) hw (by rwa [Nat.add_assoc, Nat.add_comm 1]) fun j w' hj hw' => by
        rw [Nat.add_assoc, Nat.add_comm 1]
        exact hlow (j + 1) w' (Nat.succ_lt_succ hj) hw'
      rw [decodeFrom, show decode (Fin.ofNat 4 k) v = .ok i from hi]
      simp only [hrest, Nat.add_assoc, Nat.add_comm 1]
      rfl

/-- A fetched bundle stands where the slot table allows it. -/
theorem legalBundle_of_fetchBundle (h : s.fetchBundle = .next is) : LegalBundle is := by
  obtain ⟨words, hf, hd⟩ := andThen_next.1 h
  obtain ⟨-, bs, -, rfl⟩ := State.fetch_next hf
  obtain ⟨hlen, hdec⟩ := decodeFrom_next.1 hd
  have hwidth : s.width ≤ 4 := by
    unfold State.width
    split <;> omega
  simp only [wordsOfBytes, List.length_map, List.length_range] at hlen
  refine ⟨by omega, fun k i hi => ?_⟩
  obtain ⟨hk, -⟩ := List.getElem?_eq_some_iff.1 hi
  obtain ⟨i', hi', hdi⟩ := hdec k.val _ (List.getElem?_eq_getElem (by simp [wordsOfBytes]; omega))
  cases hi.symm.trans hi'
  rw [Nat.zero_add, Fin.ofNat_val_eq_self] at hdi
  exact decode_legal hdi

/-! ### What stops a fetched bundle -/

/-- The slot with the lowest fault or race stops the bundle. -/
theorem exists_stoppingSlot_of_first (h : ∃ i ∈ is, stopsFirst (exec i s) = true) :
    ∃ k i, stoppingSlot s is = some k ∧ is[k]? = some i ∧ stopsFirst (exec i s) = true := by
  obtain ⟨i, hi, hs⟩ := h
  unfold stoppingSlot
  cases hf : is.findIdx? fun i => stopsFirst (exec i s) with
  | none => rw [List.findIdx?_eq_none_iff.1 hf i hi] at hs; cases hs
  | some k =>
    obtain ⟨hk, hstop, -⟩ := List.findIdx?_eq_some_iff_getElem.1 hf
    exact ⟨k, _, rfl, List.getElem?_eq_getElem hk, hstop⟩

/-- A bundle stops first exactly when one of its opcodes does: no rule and no commit does. -/
theorem stopsFirst_runBundle (hlegal : LegalBundle is) (hwait : Instr.wait ∈ is → s.dmaq = []) :
    stopsFirst (runBundle s is) = true ↔ ∃ i ∈ is, stopsFirst (exec i (s.bundleReads is)) = true := by
  constructor
  · intro h
    cases hk : stoppingSlot (s.bundleReads is) is with
    | some k =>
      obtain ⟨i, hi⟩ := exists_of_stoppingSlot hk
      rw [runBundle_of_stoppingSlot hk hi] at h
      exact ⟨i, List.mem_of_getElem? hi, h⟩
    | none =>
      have hnext := exec_next_of_stoppingSlot hk
      rw [runBundle_of_noStop hnext] at h
      split at h
      · cases h
      · rename_i hc
        split at h
        · cases h
        · split at h
          · cases h
          · obtain ⟨t, ht⟩ := exists_commitBundle hlegal hwait hnext (Bool.eq_false_iff.2 hc)
            rw [ht] at h
            cases h
  · intro h
    obtain ⟨k, i, hk, hi, hs⟩ := exists_stoppingSlot_of_first h
    rwa [runBundle_of_stoppingSlot hk hi]

end Sys2Proof.Machine

open Sys2Proof Sys2Proof.Machine

/-- Settles O12: the fetch, the decoder, the hold, and what stops the bundle or lets it run. -/
theorem fetchAndDecodeStopsAreRecorded : Obligations.FetchAndDecodeStopsAreRecorded := by
  intro s hrun hturn n races s'
  have hraces : races ↔ s.fetchRaces = true := State.fetchRaces_iff.symm
  split
  · rename_i hrange
    have hf : s.fetchBundle = .fault (.fetchFault s.pc) := by rw [State.fetchBundle, State.fetch_of_range hrange]; rfl
    exact stepState_of_fault hrun (step_of_fetchBundle_fault hrun hturn hf)
  rename_i hin
  refine ⟨fun c hlo hhi hc hlow => ⟨fun hr => ?_, fun hr => ?_⟩, fun words k w e hf hw he hlow => ?_, fun is hf => ?_⟩
  · have hfetch := State.fetch_of_hole hin hlo hhi hc hlow
    rw [if_pos (hraces.1 hr)] at hfetch
    have hf : s.fetchBundle = .refused .fetchUnderDma := by rw [State.fetchBundle, hfetch]; rfl
    exact stepState_of_refused hrun (step_of_fetchBundle_refused hrun hturn hf)
  · have hfetch := State.fetch_of_hole hin hlo hhi hc hlow
    rw [if_neg (mt hraces.2 hr)] at hfetch
    have hf : s.fetchBundle = .fault (.uninitialisedRead .isram c) := by rw [State.fetchBundle, hfetch]; rfl
    rw [stepState_of_fault hrun (step_of_fetchBundle_fault hrun hturn hf), State.faultSlot_of_fetchBundle_fault hf]
    rfl
  · have hd := decodeFrom_fault (pc := s.pc) (k := 0) hw (by rwa [Nat.zero_add, Fin.ofNat_val_eq_self])
      fun j w' hj hw' => by
        have hj4 : j < 4 := hj.trans k.isLt
        rw [Nat.zero_add, show Fin.ofNat 4 j = ⟨j, hj4⟩ from Fin.ext (Nat.mod_eq_of_lt hj4)]
        exact hlow ⟨j, hj4⟩ w' hj hw'
    have hbundle : s.fetchBundle = .fault (.illegalOpcode s.pc k.val w) := by
      rw [State.fetchBundle, hf, andThen_next_left, hd, Nat.zero_add]
    exact stepState_of_fault hrun (step_of_fetchBundle_fault hrun hturn hbundle)
  · have hlegal := legalBundle_of_fetchBundle hf
    refine ⟨fun hw hq => ?_, fun hwait => ?_⟩
    · exact step_of_held hrun hturn hf hw hq
    · have hstep := step_of_fetchBundle hrun hturn hf hwait
      have hfirst := stopsFirst_runBundle (s := s.coreTurn) hlegal (by rwa [State.coreTurn_dmaq])
      simp only [stopsFirst_iff (r := exec _ _)] at hfirst
      rw [runFetched, State.coreTurn_fetchRaces] at hstep
      refine ⟨fun h => hstep.trans (if_neg ?_), fun hnone hr => stepState_of_refused hrun (hstep.trans (if_pos ?_))⟩
      · rw [Bool.and_eq_true, Bool.not_eq_true', ← Bool.not_eq_true, hfirst, ← hraces]
        exact fun ⟨hr, hnot⟩ => h.elim hnot fun hr' => hr' hr
      · rw [Bool.and_eq_true, Bool.not_eq_true', ← Bool.not_eq_true, hfirst, ← hraces]
        exact ⟨hr, fun ⟨i, hi, h⟩ => hnone i hi h⟩
end

section
/-! SUPPORT. A bundle of one instruction beside NOPs does what the instruction does (40_bundle.md R165, R167, R175). -/

namespace Sys2Proof.Machine

open Sys2Proof

variable {i : Instr} {is rest : List Instr} {s t : State} {w : Word} {k : Nat} {pc : Addr}

/-! ### What an instruction leaves of control -/

/-- What is no control transfer goes on to the bundle that follows. -/
theorem exec_pc_of_data (hd : Instr.isData i = true ∨ i = .wait ∧ s.dmaq = []) (ht : exec i s = .next t) :
    t.pc = s.nextPc := by
  obtain hd | ⟨rfl, hq⟩ := hd
  · obtain ⟨e, he⟩ := exec_does hd ht
    rw [he.next ht, State.advance_pc, State.nextPc, State.width, Effect.apply_keepsControl (e s.draws s.ioInputs) s]
    rfl
  · rw [exec_wait_of_idle hq] at ht
    cases ht
    rfl

/-- No instruction makes a destination settle: its bundle does. -/
theorem exec_keeps_unsettled (ht : exec i s = .next t) : t.unsettled = s.unsettled := by
  by_cases hc : i.issueClass = .agu
  · by_cases hw : i = .wait
    · subst hw
      obtain ⟨-, rfl⟩ | ⟨-, rfl⟩ := execWait_next ht <;> rfl
    · obtain ⟨e, he⟩ := exec_agu_does hc hw ht
      rw [he.next ht, Effect.apply_keepsControl (e s.draws s.ioInputs) s]
      rfl
  · obtain ⟨-, -, h, -⟩ := exec_leaves hc ht
    exact h

/-- Without a delay no instruction leaves a target to come. -/
theorem exec_keeps_redirects (hdelay : s.params.branchDelay = 0) (ht : exec i s = .next t) :
    t.redirects = s.redirects := by
  obtain hd | hc | hj | rfl | rfl := Instr.kind_cases i
  · obtain ⟨e, he⟩ := exec_does hd ht
    rw [he.next ht, Effect.apply_keepsControl (e s.draws s.ioInputs) s]
    rfl
  · rw [exec_compare_frame hc ht]
    rfl
  · have hjump (l : List Addr) (a : Addr) : ((s.setRs l).jump a).redirects = s.redirects := by
      rw [State.jump_of_noDelay (by simpa using hdelay)]
      rfl
    obtain ⟨label, hb⟩ | hj := Instr.isTransfer_cases hj
    · obtain ⟨cond, -, -, hc⟩ := exec_conditional hb
      rw [hc] at ht
      cases ht
      unfold State.branch
      split
      · exact hjump s.rs _
      · rfl
    · cases i with
      | jmp | jmpr =>
        cases ht
        exact hjump s.rs _
      | call | callr =>
        obtain ⟨-, rfl⟩ := State.callTo_next ht
        exact hjump ..
      | ret =>
        obtain ⟨a, l, -, rfl⟩ := State.returnFrom_next ht
        exact hjump ..
      | _ => cases hj
  · cases ht
    rfl
  · obtain ⟨-, rfl⟩ | ⟨-, rfl⟩ := execWait_next ht <;> rfl

/-! ### NOPs -/

/-- All opcodes but that of slot `k` are NOPs. -/
def NopsBeside (k : Nat) (is : List Instr) : Prop := ∀ m j, m ≠ k → is[m]? = some j → j = .nop false

theorem NopsBeside.of_cons_zero (h : NopsBeside 0 (i :: rest)) : ∀ j ∈ rest, j = .nop false := by
  intro j hj
  obtain ⟨m, hm⟩ := List.mem_iff_getElem?.1 hj
  exact h (m + 1) j (Nat.succ_ne_zero m) hm

theorem NopsBeside.of_cons_succ (h : NopsBeside (k + 1) (i :: rest)) : i = .nop false ∧ NopsBeside k rest :=
  ⟨h 0 i (Nat.succ_ne_zero k).symm rfl, fun m j hm hj => h (m + 1) j (fun e => hm (Nat.succ.inj e)) hj⟩

/-- An opcode is that of slot `k` or a NOP. -/
theorem NopsBeside.mem (h : NopsBeside k is) (hi : is[k]? = some i) {j : Instr} (hj : j ∈ is) :
    j = i ∨ j = .nop false := by
  obtain ⟨m, hm⟩ := List.mem_iff_getElem?.1 hj
  by_cases hk : m = k
  · subst hk
    exact .inl (Option.some.inj (hm.symm.trans hi))
  · exact .inr (h m j hk hm)

theorem exec_nop (s : State) : exec (.nop false) s = .next s.advance := rfl

theorem noConflict_nop (s : State) (j : Instr) :
    opcodesConflict s (.nop false) j = false ∧ opcodesConflict s j (.nop false) = false := by
  have hnil (l : List Loc) : locsOverlap s.params.fprOverlay l [] = false := by simp [locsOverlap]
  refine ⟨rfl, ?_⟩
  change (locsOverlap _ (Instr.writes j s) [] || locsOverlap _ (Instr.writes j s) []
    || locsOverlap _ (Instr.reads j s) [] || (j.issueClass == .agu && false)) = false
  rw [hnil, hnil, Bool.and_false]
  rfl

/-- NOPs are committed without a trace. -/
theorem commitRest_nops (h : ∀ j ∈ rest, j = .nop false) (s : State) : commitRest pc rest s = .next s := by
  induction rest with
  | nil => rfl
  | cons j rest ih =>
    rw [h j List.mem_cons_self, commitRest, exec_nop, andThen_next_left]
    exact ih fun j hj => h j (List.mem_cons_of_mem _ hj)

/-- Among NOPs of slots 1 to 3, one opcode is committed. -/
theorem commitRest_beside (h : NopsBeside k rest) (hi : rest[k]? = some i) (s : State) :
    commitRest pc rest s = andThen (exec i (s.setPc pc)) fun t => .next (t.setPc s.pc) := by
  induction rest generalizing k with
  | nil => cases hi
  | cons j rest ih =>
    cases k with
    | zero =>
      cases hi
      rw [commitRest]
      congr 1
      exact funext fun t => commitRest_nops h.of_cons_zero _
    | succ k =>
      obtain ⟨rfl, hrest⟩ := h.of_cons_succ
      rw [commitRest, exec_nop, andThen_next_left]
      exact ih hrest hi

/-- A bundle of one opcode beside NOPs commits that opcode. -/
theorem commitBundle_beside (h : NopsBeside k is) (hi : is[k]? = some i) (ht : exec i s = .next t)
    (hpc : k ≠ 0 → t.pc = s.nextPc) : commitBundle s is = .next t := by
  cases is with
  | nil => cases hi
  | cons j rest =>
    cases k with
    | zero =>
      cases hi
      rw [commitBundle, ht, andThen_next_left]
      exact commitRest_nops h.of_cons_zero t
    | succ k =>
      obtain ⟨rfl, hrest⟩ := h.of_cons_succ
      have hown : exec i (s.advance.setPc s.pc) = .next t := ht
      rw [commitBundle, exec_nop, andThen_next_left, commitRest_beside hrest hi, hown, andThen_next_left,
        State.advance_pc, ← hpc (Nat.succ_ne_zero k)]
      rfl

theorem bundleConflicts_beside (h : NopsBeside k is) : bundleConflicts s is = false := by
  rw [← Bool.not_eq_true, bundleConflicts_iff]
  rintro ⟨m, n, a, b, hmn, ha, hb, hc⟩
  obtain hm | hn : m ≠ k ∨ n ≠ k := by omega
  · rw [h m a hm ha, (noConflict_nop s b).1] at hc
    cases hc
  · rw [h n b hn hb, (noConflict_nop s a).2] at hc
    cases hc

/-- What of a list depends on one element alone. -/
theorem flatMap_beside {β : Type} (f : Instr → List β) (hf : f (.nop false) = []) (h : NopsBeside k is)
    (hi : is[k]? = some i) : is.flatMap f = f i := by
  induction is generalizing k with
  | nil => cases hi
  | cons j is ih =>
    rw [List.flatMap_cons]
    cases k with
    | zero =>
      cases hi
      rw [List.flatMap_eq_nil_iff.2 fun j hj => by rw [h.of_cons_zero j hj, hf], List.append_nil]
    | succ k =>
      obtain ⟨rfl, hrest⟩ := h.of_cons_succ
      rw [hf, List.nil_append, ih hrest hi]

/-- A bundle of one opcode beside NOPs, which does not stop: it is refused where the opcode reads early, and else does
what the opcode does and ends. -/
theorem runBundle_beside (h : NopsBeside k is) (hi : is[k]? = some i) (ht : exec i (s.bundleReads is) = .next t)
    (hpc : k ≠ 0 → t.pc = s.nextPc) :
    (Instr.readsEarly i (s.bundleReads is) → runBundle s is = .refused .latencyHazard) ∧
      (¬Instr.readsEarly i (s.bundleReads is) →
        runBundle s is = .next (t.afterBundle (Instr.settling i (s.bundleReads is)))) := by
  have hnext (j : Instr) (hj : j ∈ is) : ∃ t, exec j (s.bundleReads is) = .next t := by
    obtain rfl | rfl := h.mem hi hj
    · exact ⟨t, ht⟩
    · exact ⟨_, exec_nop _⟩
  have hjump : (is.any Instr.endsRun && is.head?.any fun i => Instr.takesTransfer i (s.bundleReads is)) = false := by
    rw [← Bool.not_eq_true, Bool.and_eq_true, any_endsRun_iff, Option.any_eq_true]
    rintro ⟨hend, j, hj, htake⟩
    obtain rfl | hn := h.mem hi hend
    · obtain rfl | rfl := h.mem hi (List.mem_of_mem_head? hj) <;> cases htake
    · cases hn
  have hearly : (is.any fun i => Instr.readsUnsettled i (s.bundleReads is)) = true ↔
      Instr.readsEarly i (s.bundleReads is) := by
    rw [List.any_eq_true, ← Instr.readsUnsettled_iff]
    constructor
    · rintro ⟨j, hj, hr⟩
      obtain rfl | rfl := h.mem hi hj
      · exact hr
      · cases hr
    · exact fun hr => ⟨i, List.mem_of_getElem? hi, hr⟩
  rw [runBundle_of_noStop hnext, bundleConflicts_beside h, hjump, commitBundle_beside h hi ht hpc,
    flatMap_beside _ rfl h hi]
  exact ⟨fun he => if_pos (hearly.2 he), fun he => if_neg (mt hearly.1 he)⟩

/-! ### The bundle at pc -/

/-- A word is its four bytes. -/
theorem eq_of_byteOf {a b : Word} (h : ∀ k, k < 4 → byteOf a k = byteOf b k) : a = b := by
  refine BitVec.eq_of_getLsbD_eq fun j hj => ?_
  have hbit := congrArg (BitVec.getLsbD · (j % 8)) (h (j / 8) (by omega))
  simpa [byteOf, Nat.mod_lt, Nat.div_add_mod] using hbit

/-- A bundle whose bytes are those of words is fetched as these words (20_memory.md R60). -/
theorem State.fetch_of_bytes {word : Nat → Word} (hin : s.pc.toNat + 4 * s.width ≤ s.params.isramSize)
    (h : ∀ n, n < s.width → ∀ b, b < 4 → s.byteAt .isram (s.pc.toNat + 4 * n + b) = some (byteOf (word n) b)) :
    s.fetch = .next ((List.range s.width).map word) := by
  have hfetch : ∃ words, s.fetch = .next words := by
    rw [State.fetch, if_neg (by omega)]
    cases hread : s.isram.readBytes s.pc.toNat (4 * s.width) with
    | ok bs => exact ⟨_, rfl⟩
    | error e =>
      obtain ⟨hle, hlt, hnone, -⟩ := Memory.readBytes_error hread
      have hheld := h ((e - s.pc.toNat) / 4) (by omega) ((e - s.pc.toNat) % 4) (by omega)
      rw [show s.pc.toNat + 4 * ((e - s.pc.toNat) / 4) + (e - s.pc.toNat) % 4 = e by omega] at hheld
      cases hnone.symm.trans hheld
  obtain ⟨words, hwords⟩ := hfetch
  obtain ⟨hlen, hbytes⟩ := fetchIsLittleEndian s words hwords
  rw [hwords]
  congr 1
  refine List.ext_getElem (by simpa [State.width] using hlen) fun n hn hn' => ?_
  rw [List.getElem_map, List.getElem_range]
  refine eq_of_byteOf fun b hb => ?_
  have hlt : n < s.width := by simpa using hn'
  exact Option.some.inj ((hbytes n _ (List.getElem?_eq_getElem hn) b hb).symm.trans (h n hlt b hb))

/-- The bundle of one instruction beside NOPs. -/
def instrsAround (count slot : Nat) (i : Instr) : List Instr :=
  (List.range count).map fun n => if n = slot then i else .nop false

theorem getElem?_instrsAround {count slot n : Nat} (hn : n < count) :
    (instrsAround count slot i)[n]? = some (if n = slot then i else .nop false) := by
  simp [instrsAround, hn]

theorem nopsBeside_instrsAround (count slot : Nat) (i : Instr) : NopsBeside slot (instrsAround count slot i) := by
  intro m j hm hj
  obtain ⟨hlt, rfl⟩ := List.getElem?_eq_some_iff.1 hj
  simp [instrsAround, hm]

/-- One word beside NOPs decodes to its instruction beside NOPs. -/
theorem decodeFrom_bundleAround {count : Nat} {slot : Slot} (hd : decode slot w = .ok i) :
    decodeFrom pc 0 (bundleAround count slot.val w) = .next (instrsAround count slot.val i) := by
  have hnop (k : Slot) : decode k 0x62#32 = .ok (.nop false) := by revert k; decide
  refine decodeFrom_next.2 ⟨by simp [instrsAround, bundleAround], fun m w' hw' => ?_⟩
  obtain ⟨hlt, rfl⟩ := List.getElem?_eq_some_iff.1 hw'
  have hm : m < count := by simpa [bundleAround] using hlt
  refine ⟨_, getElem?_instrsAround hm, ?_⟩
  simp only [bundleAround, List.getElem_map, List.getElem_range, Nat.zero_add]
  split
  · subst m
    rwa [Fin.ofNat_val_eq_self]
  · exact hnop _

/-! ### The state that the instruction reads -/

theorem State.bundleReads_of_noWait (h : Instr.wait ∉ is) (s : State) : s.bundleReads is = s := by
  rw [State.bundleReads, if_neg h]

/-- The transfers that a WAIT ends do not matter to the WAIT itself. -/
theorem exec_bundleReads (h : NopsBeside k is) (hi : is[k]? = some i) (hw : i = .wait → s.dmaq = []) :
    exec i (s.bundleReads is) = exec i s ∧
      (Instr.readsEarly i (s.bundleReads is) ↔ Instr.readsEarly i s) ∧
      Instr.settling i (s.bundleReads is) = Instr.settling i s := by
  by_cases hwait : i = .wait
  · subst hwait
    rw [exec_wait_of_idle (hw rfl), exec_wait_of_idle (s := s.bundleReads is) (hw rfl)]
    exact ⟨rfl, Iff.rfl, rfl⟩
  · have hno : Instr.wait ∉ is := fun hmem => by
      obtain hm | hm := h.mem hi hmem
      · exact hwait hm.symm
      · cases hm
    rw [State.bundleReads_of_noWait hno]
    exact ⟨rfl, Iff.rfl, rfl⟩

/-- A bundle of one opcode beside NOPs stops as the opcode does. -/
theorem runBundle_beside_of_stop (h : NopsBeside k is) (hi : is[k]? = some i) (hw : Instr.wait ∈ is → s.dmaq = []) :
    (∀ e, exec i (s.bundleReads is) = .fault e → runBundle s is = .fault e) ∧
      ∀ r, exec i (s.bundleReads is) = .refused r → runBundle s is = .refused r := by
  have hnop (m : Nat) (j : Instr) (hm : m < k) (hj : is[m]? = some j) :
      exec j (s.bundleReads is) = .next (s.bundleReads is).advance := by
    rw [h m j hm.ne hj, exec_nop]
  obtain ⟨hfirst, hother⟩ := lowestFaultStopsTheBundle s is k i hw hi
  obtain ⟨hfault, hrace⟩ := hfirst fun m j hm hj => by simp [hnop m j hm hj]
  refine ⟨hfault, fun r hr => ?_⟩
  by_cases hdma : r = .dmaRace
  · subst hdma
    exact hrace hr
  · refine hother (fun j hj => ?_) (fun m j hm hj => ⟨_, hnop m j hm hj⟩) r hr
    obtain rfl | rfl := h.mem hi hj
    · simp [hr, hdma]
    · simp [exec_nop]

/-- Without LATENCY no destination settles. -/
theorem Instr.settling_of_noLatency (h : s.params.latency = []) : Instr.settling i s = [] := by
  simp [Instr.settling, Params.latencyOf, h]

end Sys2Proof.Machine

open Sys2Proof Sys2Proof.Machine

/-- Settles O7: the bundle is the instruction beside NOPs, and runs as the instruction does. -/
theorem stepRunsTheDecodedInstruction : Obligations.StepRunsTheDecodedInstruction := by
  intro s k w i hrun hk hd hin hraces hbytes hturn s'
  have hfetch : s.fetchBundle = .next (instrsAround s.width k.val i) := by
    have hwords : s.fetch = .next (bundleAround s.width k.val w) := State.fetch_of_bytes hin hbytes
    rw [State.fetchBundle, hwords, andThen_next_left, decodeFrom_bundleAround hd]
  have hi : (instrsAround s.width k.val i)[k.val]? = some i := (getElem?_instrsAround hk).trans (by rw [if_pos rfl])
  have hnops := nopsBeside_instrsAround s.width k.val i
  generalize instrsAround s.width k.val i = is at hfetch hi hnops
  have hwait (h : i = .wait) : s.dmaq = [] := hturn.resolve_right fun ⟨_, hne⟩ => hne h
  have hwaits (h : Instr.wait ∈ is) : s.dmaq = [] := by
    obtain h | h := hnops.mem hi h
    · exact hwait h.symm
    · cases h
  have hstep : step s = runBundle s' is :=
    (step_of_fetchBundle hrun (hturn.imp_right And.left) hfetch hwaits).trans
      (runFetched_of_noRace (s.coreTurn_fetchRaces.trans hraces) is)
  obtain ⟨hexec, hearly, hsettling⟩ := exec_bundleReads (s := s') hnops hi fun h => s.coreTurn_dmaq.trans (hwait h)
  rw [hstep, ← hexec, ← hearly, ← hsettling]
  obtain ⟨hfault, hrefused⟩ := runBundle_beside_of_stop (s := s') hnops hi fun h => s.coreTurn_dmaq.trans (hwaits h)
  have hnext (t : State) (ht : exec i (s'.bundleReads is) = .next t) :=
    runBundle_beside hnops hi ht fun h0 => (exec_pc_of_data (s := s'.bundleReads is)
      ((isData_of_legalIn (fun h => h0 (by rw [h]; rfl)) (decode_legal hd)).imp_right fun h =>
        ⟨h, s.coreTurn_dmaq.trans (hwait h)⟩) ht).trans rfl
  refine ⟨hfault, hrefused, hnext, fun hdelay hlatency hredirects hunsettled => ?_⟩
  have hparams : (s'.bundleReads is).params = s.params := s.coreTurn_params
  have hredirects' : (s'.bundleReads is).redirects = [] := s.coreTurn_redirects.trans hredirects
  have hunsettled' : (s'.bundleReads is).unsettled = [] := s.coreTurn_unsettled.trans hunsettled
  cases ht : exec i (s'.bundleReads is) with
  | fault e => exact hfault e ht
  | refused r => exact hrefused r ht
  | next t =>
    have hnot : ¬Instr.readsEarly i (s'.bundleReads is) := by simp [Instr.readsEarly, hunsettled']
    rw [(hnext t ht).2 hnot, Instr.settling_of_noLatency (by rw [hparams, hlatency]), ← State.endBundle_eq_afterBundle,
      State.endBundle_of_noDelay ((exec_keeps_redirects (by rw [hparams, hdelay]) ht).trans hredirects')
        ((exec_keeps_unsettled ht).trans hunsettled')]
end

section
/-! SUPPORT. The compares (41_bru.md R180, R181): the flags they write, and the order that the floating compare finds.
-/

namespace Sys2Proof.Machine

open Sys2Proof

/-! ### Integer compares -/

/-- The integer compare in numbers: the flags, and on to the bundle that follows (41_bru.md R180). -/
theorem State.icmp_advance (s : State) (size : Size) (a b : BitVec (Size.bits size)) :
    (s.icmp a b).advance = { s with
      pc := s.seqPc, flagZ := decide (a.toNat = b.toNat)
      flagS := decide (signedOf size a.toNat < signedOf size b.toNat), flagU := decide (a.toNat < b.toNat) } := by
  have heq : (a == b) = decide (a.toNat = b.toNat) := by
    rw [Bool.beq_eq_decide_eq]
    exact decide_eq_decide.2 BitVec.toNat_inj.symm
  have hsigned : a.slt b = decide (signedOf size a.toNat < signedOf size b.toNat) := by
    rw [BitVec.slt_eq_decide, toInt_eq_signedOf, toInt_eq_signedOf]
  have hunsigned : a.ult b = decide (a.toNat < b.toNat) := rfl
  rw [State.icmp, heq, hsigned, hunsigned, State.advance, State.nextPc_eq]
  rfl

/-! ### Floating compares -/

/-- The floating compare of two patterns writes Z and S as their order says, and goes on (41_bru.md R181). -/
theorem State.fcmp_compared (fmt : FpFormat) (s : State) (a b : Nat) :
    FloatCompared fmt s (s.fcmp (fmt.cmp s.params a b)).advance a b := by
  rw [State.advance, State.nextPc_eq]
  unfold FloatCompared
  cases fmt.cmp s.params a b with
  | lt | eq | gt => exact ⟨rfl, rfl, rfl⟩
  | unordered => exact ⟨rfl, trivial⟩

/-- A floating immediate is the pattern with its bits on top (30_encoding.md R106). -/
theorem setWidth_shiftLeft_toNat {n k w : Nat} (h : n + k = w) (value : BitVec n) :
    (value.setWidth w <<< k).toNat = value.toNat * 2 ^ k := by
  have hlt : value.toNat * 2 ^ k < 2 ^ w := by
    rw [← h, pow_add]
    exact Nat.mul_lt_mul_of_pos_right value.isLt (by positivity)
  have hle : value.toNat ≤ value.toNat * 2 ^ k := Nat.le_mul_of_pos_right _ (by positivity)
  rw [BitVec.toNat_shiftLeft, BitVec.toNat_setWidth, Nat.shiftLeft_eq, Nat.mod_eq_of_lt (hle.trans_lt hlt),
    Nat.mod_eq_of_lt hlt]

theorem floatImm_toNat (value : BitVec 21) : (floatImm value).toNat = value.toNat * 2 ^ 11 := by
  rw [floatImm, setWidth_shiftLeft_toNat]
  rfl

theorem doubleImm_toNat (value : BitVec 22) : (doubleImm value).toNat = value.toNat * 2 ^ 42 := by
  rw [doubleImm, setWidth_shiftLeft_toNat]
  rfl

/-! ### Values and their places -/

/-- The value of IEEE 754 that an unpacked pattern is. -/
def FpValue.ext : FpValue → Ext
  | .nan => .nan
  | .inf neg => .inf neg
  | .fin neg man exp => .num neg ((if neg then -1 else 1) * (man : ℚ) * (2 : ℚ) ^ exp)

/-- Flushing a pattern keeps its sign alone (92_eei_decisions.md D37; log 20). -/
theorem FpFormat.flushed_eq_kept {fmt : FpFormat} {a : Nat} (p : Params) (ha : fmt.isPattern a) :
    fmt.flushed p a = fmt.kept p a := by
  have hsmall : fmt.isSmall a = true ↔ a / 2 ^ fmt.manBits % 2 ^ fmt.expBits = 0 := by
    rw [FpFormat.isSmall, decide_eq_true_eq, Nat.add_comm, pow_add, ← Nat.mod_mul_right_div_self,
      Nat.div_eq_zero_iff_lt (by positivity)]
  have hsign : a / 2 ^ (fmt.expBits + fmt.manBits) < 2 := by
    rw [Nat.div_lt_iff_lt_mul (by positivity), ← pow_succ', Nat.add_comm _ 1, ← Nat.add_assoc]
    exact ha
  unfold FpFormat.flushed FpFormat.kept FpFormat.signOf
  cases p.subnormals with
  | keep => simp
  | flush =>
    simp only [hsmall, true_and]
    split
    · generalize a / 2 ^ (fmt.expBits + fmt.manBits) = sign at hsign
      interval_cases sign <;> simp
    · rfl

/-- What an operand stands for is the value that FP computes with. -/
theorem FpFormat.ext_eq_operand {fmt : FpFormat} {a : Nat} (p : Params) (ha : fmt.isPattern a) :
    fmt.ext p a = (fmt.operand p a).ext := by
  rw [FpFormat.ext, FpFormat.operand, FpFormat.flushed_eq_kept p ha]
  cases fmt.unpack (fmt.kept p a) <;> rfl

/-! ### The order of values -/

/-- The answer that is the order of two places. -/
def FpOrder.Orders {α : Type} [LinearOrder α] (x y : α) : FpOrder → Prop
  | .lt => x < y
  | .eq => x = y
  | .gt => y < x
  | .unordered => False

/-- Of two places one answer alone is the order. -/
theorem FpOrder.Orders.iff {α : Type} [LinearOrder α] {x y : α} {o : FpOrder} (h : o.Orders x y) :
    (o = .lt ↔ x < y) ∧ (o = .eq ↔ x = y) ∧ (o = .gt ↔ y < x) := by
  cases o with
  | lt => exact ⟨iff_of_true rfl h, iff_of_false nofun h.ne, iff_of_false nofun h.not_gt⟩
  | eq => exact ⟨iff_of_false nofun h.not_lt, iff_of_true rfl h, iff_of_false nofun h.not_gt⟩
  | gt => exact ⟨iff_of_false nofun h.not_gt, iff_of_false nofun h.ne', iff_of_true rfl h⟩
  | unordered => exact h.elim

/-- A mantissa with a lower exponent. -/
theorem signed_mul_zpow (neg : Bool) (man : Nat) {exp low : Int} (h : low ≤ exp) :
    (if neg then -1 else 1) * (man : ℚ) * 2 ^ exp =
      ((if neg then -(man * 2 ^ (exp - low).toNat) else man * 2 ^ (exp - low).toNat : Int) : ℚ) * 2 ^ low := by
  have hpow : (2 : ℚ) ^ exp = 2 ^ (exp - low).toNat * 2 ^ low := by
    rw [← zpow_natCast, Int.toNat_of_nonneg (sub_nonneg.2 h), ← zpow_add₀ two_ne_zero, sub_add_cancel]
  cases neg <;> simp [hpow, mul_assoc]

/-- Two integers compare as their multiples by a power of two do. -/
theorem orders_mul_zpow (a b low : Int) :
    (if a < b then FpOrder.lt else if a = b then .eq else .gt).Orders ((a : ℚ) * 2 ^ low) ((b : ℚ) * 2 ^ low) := by
  have hpos : (0 : ℚ) < 2 ^ low := by positivity
  obtain h | rfl | h := lt_trichotomy a b
  · rw [if_pos h]
    exact mul_lt_mul_of_pos_right (Int.cast_lt.2 h) hpos
  · rw [if_neg (lt_irrefl a), if_pos rfl]
    rfl
  · rw [if_neg h.not_gt, if_neg h.ne']
    exact mul_lt_mul_of_pos_right (Int.cast_lt.2 h) hpos

/-- The compare of two finite values is the order of their numbers. -/
theorem FpValue.cmp_fin (a b : Bool) (ma mb : Nat) (ea eb : Int) :
    ((FpValue.fin a ma ea).cmp (.fin b mb eb)).Orders ((if a then -1 else 1) * (ma : ℚ) * 2 ^ ea)
      ((if b then -1 else 1) * (mb : ℚ) * 2 ^ eb) := by
  rw [signed_mul_zpow a ma (min_le_left ea eb), signed_mul_zpow b mb (min_le_right ea eb)]
  exact orders_mul_zpow ..

/-- Numbers keep their order among the places. -/
theorem FpOrder.Orders.coe {x y : ℚ} {o : FpOrder} (h : o.Orders x y) :
    o.Orders (((x : ℚ) : WithTop ℚ) : WithBot (WithTop ℚ)) (((y : ℚ) : WithTop ℚ) : WithBot (WithTop ℚ)) := by
  cases o with
  | lt | gt => exact WithBot.coe_lt_coe.2 (WithTop.coe_lt_coe.2 h)
  | eq => exact congrArg _ (congrArg _ h)
  | unordered => exact h.elim

/-- The compare of two values that have places is the order of these (41_bru.md R181). -/
theorem FpValue.cmp_orders {v w : FpValue} {x y : WithBot (WithTop ℚ)} (hx : v.ext.place = some x)
    (hy : w.ext.place = some y) : (v.cmp w).Orders x y := by
  have hbot (z : ℚ) : (⊥ : WithBot (WithTop ℚ)) < ((z : WithTop ℚ) : WithBot (WithTop ℚ)) := WithBot.bot_lt_coe _
  have htop (z : ℚ) : ((z : WithTop ℚ) : WithBot (WithTop ℚ)) < ⊤ := WithBot.coe_lt_coe.2 (WithTop.coe_lt_top z)
  have hbt : (⊥ : WithBot (WithTop ℚ)) < ⊤ := WithBot.bot_lt_coe _
  cases v with
  | nan => cases hx
  | inf a =>
    cases hx
    cases w with
    | nan => cases hy
    | inf b =>
      cases hy
      cases a <;> cases b
      exacts [rfl, hbt, hbt, rfl]
    | fin b mb eb =>
      cases hy
      cases a
      exacts [htop _, hbot _]
  | fin a ma ea =>
    cases hx
    cases w with
    | nan => cases hy
    | inf b =>
      cases hy
      cases b
      exacts [htop _, hbot _]
    | fin b mb eb =>
      cases hy
      exact (FpValue.cmp_fin a b ma mb ea eb).coe

/-- What has no place is a NaN. -/
theorem FpValue.eq_nan_of_place {v : FpValue} (h : v.ext.place = none) : v = .nan := by
  cases v with
  | nan => rfl
  | inf | fin => cases h

/-- A NaN is unordered with everything. -/
theorem FpValue.cmp_nan {v w : FpValue} (h : v = .nan ∨ w = .nan) : v.cmp w = .unordered := by
  obtain rfl | rfl := h
  · rfl
  · cases v <;> rfl

end Sys2Proof.Machine

open Sys2Proof Sys2Proof.Machine

/-- Settles O17: both compares are the integer compare of their operands, in numbers. -/
theorem integerCompares : Obligations.IntegerCompares := by
  intro s left right imm size
  have hcmp (b : BitVec (Size.bits size)) := s.icmp_advance size (s.operand left size) b
  simp only [State.operand_toNat] at hcmp
  refine ⟨congrArg _ ((hcmp _).trans ?_), congrArg _ ((hcmp _).trans ?_)⟩
  · rw [State.operand_toNat]
  · rw [State.immOperand_toNat]

/-- Settles O18: each is the floating compare of two patterns. -/
theorem floatCompares : Obligations.FloatCompares := by
  intro s fl fr dl dr imm21 imm22
  have hcmp (fmt : FpFormat) (a b : Nat) := State.fcmp_compared fmt s a b
  rw [← floatImm_toNat, ← doubleImm_toNat]
  exact ⟨⟨_, rfl, hcmp ..⟩, ⟨_, rfl, hcmp ..⟩, ⟨_, rfl, hcmp ..⟩, ⟨_, rfl, hcmp ..⟩⟩

/-- Settles O56: FP compares the values of its operands, which is the order of their places. -/
theorem compareIsTheOrderOfNumbers : Obligations.CompareIsTheOrderOfNumbers := by
  intro fmt p a b _ ha hb left right
  have hleft : left = (fmt.operand p a).ext.place := congrArg Ext.place (FpFormat.ext_eq_operand p ha)
  have hright : right = (fmt.operand p b).ext.place := congrArg Ext.place (FpFormat.ext_eq_operand p hb)
  rw [hleft, hright]
  exact ⟨fun x y hx hy => (FpValue.cmp_orders hx hy).iff,
    fun h => FpValue.cmp_nan (h.imp FpValue.eq_nan_of_place FpValue.eq_nan_of_place)⟩
end

section
/-! SUPPORT. The control transfers (41_bru.md R182 to R184, R206 to R210): where they go, and the bundle that reaches
the target under BRANCH_DELAY (40_bundle.md R168, 70_reset_and_hazards.md R481; log 21). -/

namespace Sys2Proof.Machine

open Sys2Proof

variable {i : Instr} {is rest : List Instr} {s t : State} {a : Addr} {n : Nat} {pc : Addr}

/-! ### Targets -/

/-- A taken transfer goes as `goTo` says. -/
theorem State.jump_eq_goTo (s : State) (a : Addr) : s.jump a = s.goTo a := by
  unfold State.jump State.goTo
  rw [State.advance, State.nextPc_eq]
  rfl

/-- An absolute target in bit vectors and in numbers (41_bru.md R184). -/
theorem absTarget_eq (label : Label) : absTarget label = BitVec.ofNat 64 (8 * label.toNat) := by
  apply BitVec.eq_of_toNat_eq
  simp [absTarget, Nat.mul_comm]

/-! ### Branches, jumps, calls and returns -/

/-- A branch goes to its target or on to the bundle that follows (41_bru.md R182, R183). -/
theorem State.branch_eq_goTo (s : State) (cond : Bool) (label : Label) :
    s.branch cond label = if cond then s.goTo (s.branchTarget label) else { s with pc := s.seqPc } := by
  rw [State.branch, State.jump_eq_goTo, State.relTarget_eq, State.advance, State.nextPc_eq]
  rfl

/-- A call with room remembers the bundle that follows and goes to its target (41_bru.md R206). -/
theorem State.callTo_of_room (h : s.rs.length < s.params.callDepth) (a : Addr) :
    s.callTo a = .next (State.goTo { s with rs := s.seqPc :: s.rs } a) := by
  rw [State.callTo, if_pos h, State.jump_eq_goTo, State.nextPc_eq]
  rfl

/-- A call without room is refused (10_state.md R42). -/
theorem State.callTo_of_full (h : s.params.callDepth ≤ s.rs.length) (a : Addr) :
    s.callTo a = .refused .callDepthExceeded := if_neg h.not_gt

/-- RET takes the most recent return address (41_bru.md R210). -/
theorem exec_ret_of_cons {l : List Addr} (h : s.rs = a :: l) :
    exec .ret s = .next (State.goTo { s with rs := l } a) := by
  change s.returnFrom = _
  rw [State.returnFrom, h]
  exact congrArg _ (State.jump_eq_goTo ..)

/-! ### Targets to come -/

/-- A control transfer that completes goes on, or takes a transfer. -/
theorem exec_transfer_taken (hi : Instr.isTransfer i = true) (ht : exec i s = .next t) :
    t = s.advance ∨ ∃ l a, t = (s.setRs l).jump a := by
  obtain ⟨label, hb⟩ | hj := Instr.isTransfer_cases hi
  · obtain ⟨cond, -, -, hc⟩ := exec_conditional hb
    cases (hc s).symm.trans ht
    cases cond s.flagZ s.flagS s.flagU
    · exact .inl rfl
    · exact .inr ⟨s.rs, _, rfl⟩
  · cases i with
    | jmp | jmpr =>
      cases ht
      exact .inr ⟨s.rs, _, rfl⟩
    | call | callr => exact .inr ⟨_, _, (State.callTo_next ht).2⟩
    | ret =>
      obtain ⟨a, l, -, rfl⟩ := State.returnFrom_next ht
      exact .inr ⟨l, a, rfl⟩
    | _ => cases hj

/-- An instruction leaves the targets to come as they are, and may put another behind them. -/
theorem exec_appends_redirects (ht : exec i s = .next t) : s.redirects <+: t.redirects := by
  obtain h | h | h | rfl | rfl := Instr.kind_cases i
  · obtain ⟨v, rfl, -⟩ := exec_data_next h ht
    rfl
  · rw [exec_compare_frame h ht]
    rfl
  · obtain rfl | ⟨l, a, rfl⟩ := exec_transfer_taken h ht
    · rfl
    · rw [State.jump_redirects]
      split
      · rfl
      · exact ⟨_, rfl⟩
  · cases ht
    rfl
  · obtain ⟨-, rfl⟩ | ⟨-, rfl⟩ := execWait_next ht <;> rfl

/-- The opcodes of slots 1 to 3 leave the targets to come as they are, and may put others behind them. -/
theorem commitRest_appends_redirects (h : commitRest pc rest s = .next t) : s.redirects <+: t.redirects :=
  commitRest_keeps (P := fun u => s.redirects <+: u.redirects) (fun _ hu => hu) (fun _ _ _ hv => hv)
    (fun _ _ _ _ hu hv => hu.trans (exec_appends_redirects hv)) (by rfl) h

/-- The same for a whole bundle. -/
theorem commitBundle_appends_redirects (h : commitBundle s is = .next t) : s.redirects <+: t.redirects := by
  cases is with
  | nil =>
    cases h
    rfl
  | cons i rest =>
    obtain ⟨u, hu, hrest⟩ := commitBundle_next.1 h
    exact (exec_appends_redirects hu).trans (commitRest_appends_redirects hrest)

/-- Without a delay the opcodes of slots 1 to 3 leave no target to come. -/
theorem commitRest_keeps_redirects (hdelay : s.params.branchDelay = 0) (h : commitRest pc rest s = .next t) :
    t.redirects = s.redirects :=
  (commitRest_keeps (P := fun u => u.redirects = s.redirects ∧ u.params = s.params) (fun _ hu => hu)
    (fun _ _ _ hv => hv)
    (fun _ _ _ _ hu hv => ⟨(exec_keeps_redirects (by rw [hu.2, hdelay]) hv).trans hu.1,
      (exec_keeps_params hv).trans hu.2⟩) ⟨rfl, rfl⟩ h).1

/-- The pc after a bundle is that of slot 0 (40_bundle.md R168). -/
theorem commitRest_pc (h : commitRest pc rest s = .next t) : t.pc = s.pc := by
  induction rest generalizing s with
  | nil =>
    cases h
    rfl
  | cons i rest ih =>
    obtain ⟨u, -, hrest⟩ := commitRest_next.1 h
    rw [ih hrest, State.setPc_pc]

/-! ### The bundle that reaches the target -/

/-- After `n` more bundles the next is that at `a`: pc is there, or it is the first of the targets to come. -/
def State.ArrivesIn (s : State) (a : Addr) : Nat → Prop
  | 0 => s.pc = a
  | n + 1 => [⟨n + 1, a⟩] <+: s.redirects

/-- The end of a bundle brings the first of the targets to come one bundle nearer. -/
theorem State.endBundle_arrivesIn (h : [⟨n + 1, a⟩] <+: s.redirects) (new : List Unsettled) :
    (s.endBundle new).ArrivesIn a n := by
  obtain ⟨later, hs⟩ := h
  cases n with
  | zero =>
    change (s.endBundle new).pc = a
    simp [← hs]
  | succ n =>
    change _ <+: (s.endBundle new).redirects
    simp [← hs]

/-- A bundle brings the first of the targets to come one bundle nearer. -/
theorem runBundle_arrivesIn (h : s.ArrivesIn a (n + 1)) (ht : runBundle s is = .next t) : t.ArrivesIn a n := by
  obtain ⟨-, -, u, hu, rfl⟩ := runBundle_next ht
  rw [State.readState_eq] at hu
  have hfirst : [⟨n + 1, a⟩] <+: (s.bundleReads is).redirects := h
  exact State.endBundle_arrivesIn (hfirst.trans (commitBundle_appends_redirects hu)) _

/-- So many bundles bring pc to the target. -/
theorem runBundles_arrive {bundles : List (List Instr)} (h : s.ArrivesIn a bundles.length)
    (ht : runBundles bundles s = .next t) : t.pc = a := by
  induction bundles generalizing s with
  | nil =>
    cases ht
    exact h
  | cons is bundles ih =>
    obtain ⟨u, hu, hrest⟩ := andThen_next.1 ht
    exact ih (runBundle_arrivesIn h hu) hrest

/-- A bundle whose slot 0 takes a transfer, with no other target to come, is BRANCH_DELAY bundles before the target. -/
theorem runBundle_jump_arrivesIn {l : List Addr}
    (hi : exec i (s.bundleReads (i :: rest)) = .next (((s.bundleReads (i :: rest)).setRs l).jump a))
    (hs : s.redirects = []) (ht : runBundle s (i :: rest) = .next t) : t.ArrivesIn a s.params.branchDelay := by
  obtain ⟨-, -, u, hu, rfl⟩ := runBundle_next ht
  rw [State.readState_eq] at hu
  obtain ⟨v, hv, hrest⟩ := commitBundle_next.1 hu
  cases hi.symm.trans hv
  have hparams : (s.bundleReads (i :: rest)).params = s.params := rfl
  have hredirects : (s.bundleReads (i :: rest)).redirects = [] := hs
  cases hdelay : s.params.branchDelay with
  | zero =>
    have hnone : u.redirects = [] := by
      rw [commitRest_keeps_redirects (by simp [hparams, hdelay]) hrest]
      simp [hparams, hdelay, hredirects]
    have hpc : u.pc = a := by
      rw [commitRest_pc hrest]
      simp [hparams, hdelay]
    change (u.endBundle _).pc = a
    simp [hnone, hpc]
  | succ n =>
    have hfirst := commitRest_appends_redirects hrest
    simp only [State.jump_redirects, State.setRs_params, State.setRs_redirects, hparams, hdelay, hredirects] at hfirst
    exact State.endBundle_arrivesIn hfirst _

/-- JMP, JMPR, CALL and CALLR that complete take a transfer to their target (41_bru.md R183, R184). -/
theorem exec_jump_taken {label : Label} (hi : i ∈ [Instr.jmp label, .jmpr label, .call label, .callr label])
    (ht : exec i s = .next t) : ∃ l, t = (s.setRs l).jump
      (if i = .jmp label ∨ i = .call label then BitVec.ofNat 64 (8 * label.toNat) else s.branchTarget label) := by
  rw [← absTarget_eq, ← State.relTarget_eq]
  simp only [List.mem_cons, List.not_mem_nil, or_false] at hi
  obtain rfl | rfl | rfl | rfl := hi
  · cases ht
    exact ⟨s.rs, by rw [if_pos (.inl rfl)]; rfl⟩
  · cases ht
    exact ⟨s.rs, by rw [if_neg (by simp)]; rfl⟩
  · obtain ⟨-, rfl⟩ := State.callTo_next ht
    exact ⟨_, by rw [if_pos (.inr rfl)]⟩
  · obtain ⟨-, rfl⟩ := State.callTo_next ht
    exact ⟨_, by rw [if_neg (by simp)]⟩

end Sys2Proof.Machine

open Sys2Proof Sys2Proof.Machine

/-- Settles O19: each is a branch, on its condition on the flags. -/
theorem branchConditions : Obligations.BranchConditions := by
  intro s label goes
  have hgoes {i : Instr} {c d : Bool} (hi : exec i s = .next (s.branch c label)) (hc : c = d) :
      exec i s = .next (goes d) := by
    rw [hi, hc, State.branch_eq_goTo]
  exact ⟨hgoes rfl (by simp [State.condNe]), hgoes rfl (by simp [State.condEq]), hgoes rfl (by simp [State.condL]),
    hgoes rfl (by simp [State.condLe]), hgoes rfl (by simp [State.condG]), hgoes rfl (by simp [State.condGe]),
    hgoes rfl (by simp [State.condLs]), hgoes rfl (by simp [State.condLes]), hgoes rfl (by simp [State.condGs]),
    hgoes rfl (by simp [State.condGes])⟩

/-- Settles O20: the targets in numbers, and the first of the targets to come, one bundle nearer with every bundle. No
transfer of the bundles on the way comes before it. -/
theorem jumpAndCallTargets : Obligations.JumpAndCallTargets := by
  refine ⟨fun s label => ?_, fun s t label i rest later hi hs hlater _ ht => ?_⟩
  · rw [← absTarget_eq, ← State.relTarget_eq]
    refine ⟨by omega, congrArg _ (State.jump_eq_goTo ..), congrArg _ (State.jump_eq_goTo ..), fun hroom => ?_⟩
    exact ⟨State.callTo_of_room hroom _, State.callTo_of_room hroom _⟩
  · obtain ⟨u, hu, hrest⟩ := andThen_next.1 ht
    obtain ⟨v, hv⟩ := exec_next_of_runBundle hu i List.mem_cons_self
    obtain ⟨l, rfl⟩ := exec_jump_taken hi hv
    have harrives := runBundle_jump_arrivesIn hv hs hu
    rw [← hlater] at harrives
    exact runBundles_arrive harrives hrest

/-- Settles O21: RET takes the first of the return addresses, and a call compares their number with CALL_DEPTH. -/
theorem returnsAndCallDepth : Obligations.ReturnsAndCallDepth := by
  intro s label
  refine ⟨fun a rest h => exec_ret_of_cons h, fun h => ?_, fun h => ?_⟩
  · change s.returnFrom = _
    rw [State.returnFrom, h]
  · exact ⟨State.callTo_of_full h _, State.callTo_of_full h _⟩

/-- Settles O22: the call put the bundle that follows on top of the return addresses, and RET takes it. -/
theorem returnUndoesCall : Obligations.ReturnUndoesCall := by
  intro s t u label i hi ht hu
  have hcall (a : Addr) (h : s.callTo a = .next t) : u.rs = s.seqPc :: s.rs := by
    obtain ⟨-, rfl⟩ := State.callTo_next h
    rw [hu, State.jump_rs, State.setRs_rs, State.nextPc_eq]
  have hrs : u.rs = s.seqPc :: s.rs := by
    obtain rfl | rfl := hi
    · exact hcall _ ht
    · exact hcall _ ht
  refine ⟨_, exec_ret_of_cons hrs, ?_, rfl, fun hdelay => ?_⟩
  · rw [← State.jump_eq_goTo, State.jump_rs]
  · rw [← State.jump_eq_goTo, State.jump_pc]
    exact if_pos hdelay
end

section
/-! SUPPORT. The bytes of an access: the bytes of a value as the statements list them (20_memory.md R61, 42_lsu.md
R256), what a load finds and a store leaves when its checks pass, and where the checks stop it (42_lsu.md R259). -/

namespace Sys2Proof.Machine

open Sys2Proof

variable {i : Instr} {s t : State} {sp : Space} {a : Int} {n v : Nat} {b : Nat → Byte}

/-! ### Bytes of registers -/

/-- `b` lists the `n` low bytes of a value, the least significant first (20_memory.md R61). -/
def MemoryImage (n v : Nat) (b : Nat → Byte) : Prop := ∀ k, k < n → BitVec.ofNat 8 (v / 256 ^ k) = b k

theorem pow_256_eq (k : Nat) : 256 ^ k = 2 ^ (8 * k) := by
  rw [pow_mul]
  norm_num

theorem byteOf_eq_ofNat {w : Nat} (value : BitVec w) (k : Nat) :
    byteOf value k = BitVec.ofNat 8 (value.toNat / 256 ^ k) := by
  rw [byteOf, BitVec.extractLsb', Nat.shiftRight_eq_div_pow, pow_256_eq]

/-- The bytes of a register value are its memory image. -/
theorem memoryImage_byteOf {w : Nat} (n : Nat) (value : BitVec w) : MemoryImage n value.toNat (byteOf value) :=
  fun k _ => (byteOf_eq_ofNat value k).symm

/-- A byte inside the low `w` bits of a number is one of the pattern of those bits. -/
theorem byteOf_ofNat {w k : Nat} (v : Nat) (h : 8 * (k + 1) ≤ w) :
    byteOf (BitVec.ofNat w v) k = BitVec.ofNat 8 (v / 256 ^ k) := by
  rw [pow_256_eq, ← Nat.shiftRight_eq_div_pow]
  refine BitVec.eq_of_getLsbD_eq fun j hj => ?_
  simp only [byteOf, BitVec.getLsbD_extractLsb', BitVec.getLsbD_ofNat, Nat.testBit_shiftRight, hj,
    show 8 * k + j < w by omega, decide_true, Bool.true_and]

/-- A register that holds a loaded value has the bytes of memory. -/
theorem MemoryImage.byteOf_ofNat {w k : Nat} (h : MemoryImage n v b) (hk : k < n) (hw : 8 * n ≤ w) :
    byteOf (BitVec.ofNat w v) k = b k :=
  (Machine.byteOf_ofNat v (by omega)).trans (h k hk)

/-- The lanes of a vector made of 16 bytes are those of the bytes, lane x lowest (42_lsu.md R256). -/
theorem vectorByte_ofNat128 (v : Nat) {k : Nat} (hk : k < 16) :
    vectorByte (Vec4.ofNat128 v) k = BitVec.ofNat 8 (v / 256 ^ k) := by
  have hexp : 32 * (k / 4) + 8 * (k % 4) = 8 * k := by omega
  rw [vectorByte, Vec4.ofNat128, Vec4.lane_build _ (by omega), byteOf_ofNat _ (by omega), Nat.div_div_eq_div_mul,
    pow_256_eq, ← pow_add, hexp, ← pow_256_eq]

/-- A vector is made of its own 16 bytes. -/
theorem Vec4.ofNat128_toNat128 (value : Vec4) : Vec4.ofNat128 value.toNat128 = value := by
  obtain ⟨x, y, z, w⟩ := value
  have hx := x.isLt
  have hy := y.isLt
  have hz := z.isLt
  have hw := w.isLt
  simp only [Vec4.ofNat128, Vec4.build, Vec4.toNat128, Vec4.mk.injEq]
  refine ⟨?_, ?_, ?_, ?_⟩ <;> apply BitVec.eq_of_toNat_eq <;> rw [BitVec.toNat_ofNat] <;> omega

/-- The lanes of a vector are its memory image, lane x lowest (42_lsu.md R256). -/
theorem memoryImage_vectorByte (value : Vec4) : MemoryImage 16 value.toNat128 (vectorByte value) := by
  intro k hk
  rw [← vectorByte_ofNat128 _ hk, Vec4.ofNat128_toNat128]

/-! ### Checks -/

/-- The first two checks in numbers (42_lsu.md R259): the alignment of an address in range is that of a natural number.
-/
theorem State.checkAccess_eq (s : State) (sp : Space) (a : Int) (n : Nat) :
    s.checkAccess sp a n =
      if a < 0 ∨ 2 ^ 64 ≤ a ∨ s.sizeOf sp < a + n then .fault (.addressFault sp a n)
      else if s.params.misaligned = .fault ∧ a % n ≠ 0 then .fault (.misalignedAccess sp a.toNat n)
      else .next a.toNat := by
  have hin : s.inSpace sp a n = true ↔ ¬(a < 0 ∨ 2 ^ 64 ≤ a ∨ s.sizeOf sp < a + n) := by
    simp only [State.inSpace, Bool.and_eq_true, decide_eq_true_eq]
    omega
  by_cases hrange : a < 0 ∨ 2 ^ 64 ≤ a ∨ s.sizeOf sp < a + n
  · rw [State.checkAccess, Bool.eq_false_iff.2 fun h => hin.1 h hrange, if_pos hrange]
    rfl
  · rw [State.checkAccess, hin.2 hrange, if_neg hrange]
    obtain ⟨c, rfl⟩ := Int.eq_ofNat_of_zero_le (show 0 ≤ a by omega)
    have hmod : (c : Int) % n = 0 ↔ c % n = 0 := by norm_cast
    cases hm : s.params.misaligned <;> simp [State.alignedFor, hm, ← hmod]

/-- An access that is in range and aligned passes the first two checks. -/
theorem State.checkAccess_of_accessOk (h : s.accessOk sp a n) : s.checkAccess sp a n = .next a.toNat := by
  obtain ⟨hnonneg, hfits, hend, halign⟩ := h
  rw [State.checkAccess_eq, if_neg (by omega), if_neg fun hm => hm.2 (halign hm.1)]

/-- A load that passes its checks and finds every byte gives the value of those bytes. -/
theorem State.load_of_holdsBytes (hok : s.accessOk sp a n) (hr : s.readRaces sp a.toNat n = false)
    (hb : s.holdsBytes sp a.toNat n b) : ∃ v, s.load sp a n = .next v ∧ MemoryImage n v b := by
  have hbytes : (s.mem sp).readBytes a.toNat ((List.range n).map b).length = .ok ((List.range n).map b) :=
    Memory.readBytes_of_get? fun k hk => by
      simp only [List.length_map, List.length_range] at hk
      simpa [hk, State.byteAt] using hb k hk
  simp only [List.length_map, List.length_range] at hbytes
  refine ⟨leNat ((List.range n).map b), ?_, fun k hk => ?_⟩
  · rw [State.load, State.checkAccess_of_accessOk hok, andThen_next_left, if_neg (by simp [hr]), hbytes]
  · have hlist := leBytes_leNat ((List.range n).map b)
    have hbyte := leBytes_getElem? n (leNat ((List.range n).map b)) k hk
    simp only [List.length_map, List.length_range] at hlist
    simpa [hlist, hk] using hbyte.symm

/-- A store that passes its checks writes its bytes. -/
theorem State.store_of_accessOk (hok : s.accessOk sp a n) (hr : s.writeRaces sp a.toNat n = false) :
    s.store sp a n v = .next (s.setMem sp ((s.mem sp).writeBytes a.toNat (leBytes n v))) := by
  rw [State.store, State.checkAccess_of_accessOk hok, andThen_next_left, if_neg (by simp [hr])]

/-- A write of the bytes of a value stores its memory image and leaves the other bytes. -/
theorem State.bytesStored_setMem {a : Nat} (hsp : sp ≠ .iosram) (hb : MemoryImage n v b) :
    BytesStored s (s.setMem sp ((s.mem sp).writeBytes a (leBytes n v))) sp a n b := by
  refine ⟨fun k hk => ?_, fun c hc => ?_⟩
  · rw [State.byteAt_setMem _ _ _ _ _ hsp, if_pos rfl, Memory.get?_writeBytes _ _ _ _ (by rwa [leBytes_length]),
      leBytes_getElem? _ _ _ hk, hb k hk]
  · rw [State.byteAt_setMem _ _ _ _ _ hsp, if_pos rfl,
      Memory.get?_writeBytes_of_outside _ _ _ _ (by rwa [leBytes_length])]
    rfl

/-- A read stops at the first byte without a value (20_memory.md R66). -/
theorem Memory.readBytes_eq_error {m : Memory} {a n c : Nat} (hle : a ≤ c) (hlt : c < a + n) (hc : m.get? c = none)
    (hbefore : ∀ d, a ≤ d → d < c → m.get? d ≠ none) : m.readBytes a n = .error c := by
  cases hr : m.readBytes a n with
  | ok bs =>
    obtain ⟨hlen, hget⟩ := Memory.readBytes_ok hr
    have hheld := hget (c - a) (by omega)
    rw [Nat.add_sub_cancel' hle, hc, List.getElem?_eq_getElem (by omega)] at hheld
    cases hheld
  | error e =>
    obtain ⟨hle', -, he, hbefore'⟩ := Memory.readBytes_error hr
    obtain hlt' | rfl | hlt' := Nat.lt_trichotomy e c
    · exact absurd he (hbefore e hle' hlt')
    · rfl
    · exact absurd hc (hbefore' c hle hlt')

/-! ### What an instruction accesses -/

/-- How an instruction begins: with a load, with a store, or with the checks of a port. -/
inductive Instr.Begins (i : Instr) (s : State) : Space → Int → Nat → Bool → Prop
  | load {sp : Space} {a : Int} {n : Nat} (k : Nat → Result State) (h : exec i s = andThen (s.load sp a n) k) :
    Begins i s sp a n false
  | store {sp : Space} {a : Int} {n : Nat} (v : Nat) (k : State → Result State)
    (h : exec i s = andThen (s.store sp a n v) k) : Begins i s sp a n true
  | port {a : Int} {n : Nat} {writes : Bool} (k : Nat → Result State)
    (h : exec i s = andThen (s.checkAccess .iosram a n) k) : Begins i s .iosram a n writes

/-- The effective address in numbers (20_memory.md R72, 30_encoding.md R104). -/
theorem State.effAddr_eq {w : Nat} (s : State) (m : Mnemonic) (base : Reg) (value : BitVec w) :
    s.effAddr m base value = (s.getX base).toNat + s.immOf m value := by
  rw [State.effAddr, State.immValue_eq_immOf]

/-- Every LSU instruction begins with the access that it makes. -/
theorem Instr.begins_of_access {writes : Bool} (h : Instr.access i s = some (sp, a, n, writes)) :
    Instr.Begins i s sp a n writes := by
  cases i <;> cases h
  all_goals simp only [← State.immValue_eq_immOf]
  case ldm | ldc | ldmx | ldmv | ldcv | ldmf | ldcf | ldmd | ldcd => exact .load _ rfl
  case stm | stc | stmx | stmv | stcv | stmf | stcf | stmd | stcd => exact .store _ _ rfl
  case inp | out | outi => exact .port _ rfl

/-- Where the first two checks stop an access, they stop its instruction. -/
theorem Instr.Begins.exec_of_checkAccess {writes : Bool} {e : Fault} (h : Instr.Begins i s sp a n writes)
    (hc : s.checkAccess sp a n = .fault e) : exec i s = .fault e := by
  cases h with
  | load _ hx => rw [hx, State.load, hc]; rfl
  | store _ _ hx => rw [hx, State.store, hc]; rfl
  | port _ hx => rw [hx, hc]; rfl

/-- An access to memory that passes them and races with a transfer is refused (20_memory.md R76). -/
theorem Instr.Begins.exec_of_races {writes : Bool} (h : Instr.Begins i s sp a n writes) (hsp : sp ≠ .iosram)
    (hc : s.checkAccess sp a n = .next a.toNat)
    (hr : (if writes then s.writeRaces sp a.toNat n else s.readRaces sp a.toNat n) = true) :
    exec i s = .refused .dmaRace := by
  cases h with
  | load _ hx => rw [hx, State.load, hc, andThen_next_left, if_pos (by simpa using hr)]; rfl
  | store _ _ hx => rw [hx, State.store, hc, andThen_next_left, if_pos (by simpa using hr)]; rfl
  | port => contradiction

/-- A load from memory that passes all other checks stops at the first byte without a value (20_memory.md R66). -/
theorem Instr.Begins.exec_of_unheld {c : Nat} (h : Instr.Begins i s sp a n false) (hsp : sp ≠ .iosram)
    (hc : s.checkAccess sp a n = .next a.toNat) (hr : s.readRaces sp a.toNat n = false)
    (hread : (s.mem sp).readBytes a.toNat n = .error c) : exec i s = .fault (.uninitialisedRead sp c) := by
  cases h with
  | load _ hx => rw [hx, State.load, hc, andThen_next_left, if_neg (by simp [hr]), hread]; rfl
  | port => contradiction

end Sys2Proof.Machine

open Sys2Proof Sys2Proof.Machine

/-- Settles O34: every LSU instruction begins with its access, whose checks come in this order. -/
theorem accessChecksInOrder : Obligations.AccessChecksInOrder := by
  intro i s sp a n writes h
  have hbegins := Instr.begins_of_access h
  have hcheck := s.checkAccess_eq sp a n
  split_ifs at hcheck with hrange halign
  · rw [if_pos hrange]
    exact hbegins.exec_of_checkAccess hcheck
  · rw [if_neg hrange, if_pos halign]
    exact hbegins.exec_of_checkAccess hcheck
  · rw [if_neg hrange, if_neg halign]
    by_cases hrace : sp ≠ .iosram ∧ (if writes then s.writeRaces sp a.toNat n else s.readRaces sp a.toNat n) = true
    · rw [if_pos hrace]
      exact hbegins.exec_of_races hrace.1 hcheck hrace.2
    · rw [if_neg hrace]
      rintro hsp rfl c hle hlt hc hbefore
      have hr : s.readRaces sp a.toNat n = false := by simpa [hsp] using hrace
      refine hbegins.exec_of_unheld hsp hcheck hr ?_
      exact Memory.readBytes_eq_error (by omega) (by omega) hc fun d hd => hbefore d (by omega)
end

section
/-! SUPPORT. Stores, integer loads and ports: the address register, the bytes stored, the general registers loaded, and
the events recorded (42_lsu.md R231 to R240, R257, R258). -/

namespace Sys2Proof.Machine

open Sys2Proof

variable {i : Instr} {s t : State} {sp : Space} {a : Int} {n : Nat} {b : Nat → Byte} {data base : Reg} {size : Size}
  {inc : Bool}

/-! ### Sizes and address registers -/

theorem Size.bits_eq (size : Size) : Size.bits size = 8 * Size.bytes size := rfl

theorem Size.pow_bytes (size : Size) : 256 ^ Size.bytes size = 2 ^ Size.bits size := pow_256_eq _

/-- A short size is one byte or two (30_encoding.md R105). -/
theorem Size.toField_lt_of_isShort (h : size.isShort = true) : size.toField < 2 := by
  cases size with
  | b | w => decide
  | l | q => cases h

/-- The register that *Source* names, in the words of the statements (30_encoding.md R120). -/
theorem State.lsxBase_eq (s : State) (source : Bool) :
    s.lsxBase source = if (s.params.lsxSourceMap = .prose) = (source = true) then 63 else 62 := by
  unfold State.lsxBase
  cases s.params.lsxSourceMap <;> cases source <;> simp

/-- The post-increment in the words of the statements (42_lsu.md R257). -/
theorem State.onlyBase_postInc (s : State) (base : Reg) (inc : Bool) (n : Nat) :
    OnlyBase s (s.postInc base inc n) base inc n := by
  cases inc with
  | false => exact ⟨rfl, fun _ _ => rfl⟩
  | true => exact ⟨State.getX_setX_self .., fun r hr => State.getX_setX_of_ne _ _ _ _ hr⟩

/-- Only the general registers count for what the post-increment changes. -/
theorem OnlyBase.congr {s' t' : State} (h : OnlyBase s t base inc n) (hs : s'.x = s.x) (hp : s'.params = s.params)
    (ht : t'.x = t.x) : OnlyBase s' t' base inc n := by
  simpa only [OnlyBase, State.getX, State.baseAfter, hs, hp, ht] using h

/-! ### Stores -/

/-- An instruction that stores the value and increments its address register does as the statements say
(42_lsu.md R233, R257). -/
theorem stores_of_store {v : Nat} (hsp : sp = .dsram ∨ sp = .cache) (hb : MemoryImage n v b)
    (hx : exec i s = andThen (s.store sp a n v) fun u => .next (u.postInc base inc n).advance) :
    Stores i s sp base a n inc b := by
  intro hok hr
  have hport : sp ≠ .iosram := by
    rintro rfl
    simp at hsp
  have hstored := State.bytesStored_setMem (s := s) (a := a.toNat) hport hb
  rw [State.store_of_accessOk hok hr, andThen_next_left] at hx
  generalize (s.mem sp).writeBytes a.toNat (leBytes n v) = m at hx hstored
  refine ⟨_, hx, ?_, ?_, ?_⟩
  · obtain rfl | rfl := hsp <;> cases inc <;> exact hstored
  · exact (State.onlyBase_postInc ..).congr (State.setMem_x s sp m).symm (State.setMem_params ..).symm rfl
  · rw [State.advance, State.nextPc_eq, State.postInc_eq]
    obtain rfl | rfl := hsp <;> rfl

/-- Integer stores (42_lsu.md R233). -/
theorem stores_of_storeInt (hsp : sp = .dsram ∨ sp = .cache) (hx : exec i s = s.storeInt sp data base a size inc) :
    Stores i s sp base a (Size.bytes size) inc (byteOf (s.getX data)) :=
  stores_of_store hsp (memoryImage_byteOf _ _) hx

/-! ### Integer loads -/

/-- LOAD_EXT as the setting of NARROW_UPPER that fills the upper bits likewise (20_memory.md R70, 43_alu.md R285). -/
def LoadExt.toNarrow : LoadExt → NarrowUpper
  | .zero => .zero
  | .sign => .sextMarked
  | .preserve => .preserve

/-- A load extends as an operation marked "Sign-extended" does. -/
theorem extendLoad_eq (mode : LoadExt) (size : Size) (old : XWord) (v : Nat) :
    extendLoad mode size old v = extendResult (LoadExt.toNarrow mode) true size old 0 (BitVec.ofNat _ v) := by
  cases mode <;> rfl

/-- What is written for a load is what LOAD_EXT says (20_memory.md R70). -/
theorem extendLoad_loadWritten {v : Nat} (mode : LoadExt) (size : Size) (old : XWord)
    (hb : MemoryImage (Size.bytes size) v b) :
    LoadWritten mode (Size.bytes size) old (extendLoad mode size old v) b := by
  have hwritten := extendResult_narrowWritten (LoadExt.toNarrow mode) true size old 0 (BitVec.ofNat _ v)
  have hlow := extendResult_low (LoadExt.toNarrow mode) true size old 0 (BitVec.ofNat _ v)
  rw [← extendLoad_eq] at hwritten hlow
  obtain ⟨-, hupper⟩ := hwritten
  refine ⟨fun k hk => ?_, ?_⟩
  · have hbyte := hb.byteOf_ofNat hk (Size.bits_eq size).ge
    rw [← hlow, byteOf, BitVec.extractLsb'_setWidth_of_le] at hbyte
    · exact hbyte
    · rw [Size.bits_eq]; omega
  · cases mode with
    | zero => exact hupper.trans_eq (Size.pow_bytes size).symm
    | sign | preserve => exact hupper

/-- An instruction that is an integer load does as the statements say (42_lsu.md R232, R257, R258). -/
theorem loadsX_of_loadInt (hx : exec i s = s.loadInt sp data base a size inc) :
    LoadsX i s sp data base a (Size.bytes size) inc := by
  intro b hok hr hb hne
  obtain ⟨v, hv, himage⟩ := State.load_of_holdsBytes hok hr hb
  obtain ⟨hbase, hrest⟩ := s.onlyBase_postInc base inc (Size.bytes size)
  have hguard : (inc && data == base) = false := by
    cases inc with
    | false => rfl
    | true => exact beq_eq_false_iff_ne.2 (hne rfl)
  rw [State.loadInt, hv, andThen_next_left, hguard, if_neg Bool.false_ne_true] at hx
  refine ⟨_, hx, ?_, ?_, fun h => ?_, fun r hd hr => ?_⟩
  · rw [State.advance, State.nextPc_eq, State.postInc_eq]
    rfl
  · exact (State.getX_setX_self ..).symm ▸ extendLoad_loadWritten _ size _ himage
  · exact (State.getX_setX_of_ne _ _ _ _ h.symm).trans hbase
  · exact (State.getX_setX_of_ne _ _ _ _ hd).trans (hrest r hr)

/-- An integer load that would increment its own data register is refused once it has its bytes (42_lsu.md R258). -/
theorem exec_loadInt_of_conflict (hx : exec i s = s.loadInt sp base base a size true)
    (hok : s.accessOk sp a (Size.bytes size)) (hr : s.readRaces sp a.toNat (Size.bytes size) = false)
    (hb : s.holdsBytes sp a.toNat (Size.bytes size) b) : exec i s = .refused .operandConflict := by
  obtain ⟨v, hv, -⟩ := State.load_of_holdsBytes hok hr hb
  rw [hx, State.loadInt, hv, andThen_next_left]
  simp

/-! ### IOSRAM -/

theorem State.ioAnswer_lt (s : State) (n : Nat) : s.ioAnswer n < 256 ^ n := by
  have hpos : 0 < 256 ^ n := by positivity
  unfold State.ioAnswer
  split <;> exact Nat.mod_lt _ hpos

/-- The environment's next answer, cut to the bytes read (42_lsu.md R236; log 6). -/
theorem State.ioAnswer_of_cons {answer : BitVec 64} {rest : List (BitVec 64)} (h : s.ioInputs = answer :: rest) :
    s.ioAnswer n = answer.toNat % 256 ^ n := by
  rw [State.ioAnswer, h]

/-- An output that passes its checks is recorded (42_lsu.md R237). -/
theorem State.outputIo_of_accessOk (h : s.accessOk .iosram a n) (v : Nat) :
    s.outputIo a n v =
      .next { s with pc := s.seqPc, ioLog := s.ioLog ++ [.output a.toNat n (v % 256 ^ n)] } := by
  rw [State.outputIo, State.checkAccess_of_accessOk h, andThen_next_left, State.advance, State.nextPc_eq]
  rfl

/-- The low bits of an immediate do not depend on how IMM_SIGNED extends it (30_encoding.md R104). -/
theorem State.immExt_mod {w k : Nat} (s : State) (m : Mnemonic) (value : BitVec w) (hk : k ≤ w) (hw : w ≤ 64) :
    (s.immExt m value).toNat % 2 ^ k = value.toNat % 2 ^ k := by
  have hlow : (s.immExt m value).setWidth k = value.setWidth k := by
    ext j hj
    cases hm : s.signsImm m
    · rw [State.immExt_of_unsigned hm]
      simp [show j < 64 by omega]
    · rw [State.immExt_of_signed hm]
      simp [BitVec.getElem_signExtend, show j < w by omega, show j < 64 by omega]
  simpa using congrArg BitVec.toNat hlow

/-- An input that passes its checks writes the environment's answer as a load writes its bytes, and is recorded
(42_lsu.md R236, 20_memory.md R70). -/
theorem exec_inp_of_accessOk {addr : BitVec 8} (h : s.accessOk .iosram (s.immOf .inp addr) (Size.bytes size)) :
    ∃ t, exec (.inp data addr size) s = .next t ∧
      t = { s with
        pc := s.seqPc, x := t.x, ioInputs := s.ioInputs.tail
        ioLog := s.ioLog ++ [.input (s.immOf .inp addr).toNat (Size.bytes size) (s.ioAnswer (Size.bytes size))]
        draws := t.draws } ∧
      LoadWritten s.params.loadExt (Size.bytes size) (s.getX data) (t.getX data)
        (byteOf (BitVec.ofNat 64 (s.ioAnswer (Size.bytes size)))) ∧
      ∀ r, r ≠ data → t.getX r = s.getX r := by
  have hx : exec (.inp data addr size) s = andThen (s.checkAccess .iosram (s.immValue .inp addr) _) _ := rfl
  rw [State.immValue_eq_immOf, State.checkAccess_of_accessOk h, andThen_next_left] at hx
  refine ⟨_, hx, ?_, ?_, fun r hr => State.getX_setX_of_ne _ _ _ _ hr⟩
  · rw [State.advance, State.nextPc_eq]
    rfl
  · have hle : 8 * Size.bytes size ≤ 64 := Size.bits_le size
    have himage : MemoryImage (Size.bytes size) (s.ioAnswer (Size.bytes size)) (byteOf (BitVec.ofNat 64 _)) :=
      fun k hk => (byteOf_ofNat _ (by omega)).symm
    exact (State.getX_setX_self ..).symm ▸ extendLoad_loadWritten _ size _ himage

end Sys2Proof.Machine

open Sys2Proof Sys2Proof.Machine

/-- Settles O29: each is an integer load at its effective address. -/
theorem integerLoads : Obligations.IntegerLoads := by
  intro s data base imm imm16 size inc source a n refused
  refine ⟨loadsX_of_loadInt ?_, loadsX_of_loadInt ?_, ?_, fun b => exec_loadInt_of_conflict (base := base) ?_,
    fun b => exec_loadInt_of_conflict (base := base) ?_⟩
  · exact congrArg (s.loadInt .dsram data base · size inc) (s.effAddr_eq .ldm base imm)
  · exact congrArg (s.loadInt .cache data base · size inc) (s.effAddr_eq .ldc base imm)
  · rw [← State.lsxBase_eq]
    exact loadsX_of_loadInt (congrArg (s.loadInt .dsram data _ · size false) (s.effAddr_eq .ldmx _ imm16))
  · exact congrArg (s.loadInt .dsram base base · size true) (s.effAddr_eq .ldm base imm)
  · exact congrArg (s.loadInt .cache base base · size true) (s.effAddr_eq .ldc base imm)

/-- Settles O30: each is an integer store at its effective address. -/
theorem integerStores : Obligations.IntegerStores := by
  intro s data base imm imm16 size inc source a
  refine ⟨stores_of_storeInt (.inl rfl) ?_, stores_of_storeInt (.inr rfl) ?_, ?_⟩
  · exact congrArg (s.storeInt .dsram data base · size inc) (s.effAddr_eq .stm base imm)
  · exact congrArg (s.storeInt .cache data base · size inc) (s.effAddr_eq .stc base imm)
  · rw [← State.lsxBase_eq]
    exact stores_of_storeInt (.inl rfl)
      (congrArg (s.storeInt .dsram data _ · size false) (s.effAddr_eq .stmx _ imm16))

/-- Settles O31: the checks pass, and each access records its event and keeps no byte. -/
theorem iosramAccesses : Obligations.IosramAccesses := by
  intro s data addr imm size n a
  have haddr (k : Mnemonic) : s.immValue k addr = a k := s.immValue_eq_immOf k addr
  refine ⟨fun hok => ?_, fun hok => ?_, fun hshort hok => ?_⟩
  · obtain ⟨t, ht, hframe, hwritten, hrest⟩ := exec_inp_of_accessOk (data := data) hok
    exact ⟨t, _, ht, s.ioAnswer_lt n, fun _ _ => State.ioAnswer_of_cons, hframe, hwritten, hrest⟩
  · change s.outputIo (s.immValue .out addr) (Size.bytes size) (s.getX data).toNat = _
    rw [haddr]
    exact State.outputIo_of_accessOk hok _
  · change s.outputIo (s.immValue .outi addr) (1 + size.toField) (s.immExt .outi imm).toNat = _
    have hbits : 8 * (1 + size.toField) ≤ 16 := by
      have := Size.toField_lt_of_isShort hshort
      omega
    rw [haddr, State.outputIo_of_accessOk hok, pow_256_eq, State.immExt_mod _ _ _ hbits (by decide)]
end

section
/-! SUPPORT. Loads of float, double and vector registers: what a write of one does to the other two views (10_state.md
R37; log 3), and the register and the address register after a load (42_lsu.md R241 to R252, R256, R257). -/

namespace Sys2Proof.Machine

open Sys2Proof

variable {i : Instr} {s : State} {sp : Space} {a : Int} {n : Nat} {base : Reg} {inc : Bool}

/-! ### The other two views of a written register (10_state.md R37; log 3) -/

/-- A write of a float register changes of the other two views what FPR_OVERLAY says. -/
theorem State.onlyFloat_setF (s : State) (r : FReg) (value : BitVec 32) : OnlyFloat s (s.setF r value) r := by
  refine ⟨fun q hq => State.getF_setF_of_ne _ _ _ _ hq, ?_⟩
  cases hm : s.params.fprOverlay with
  | unstated => exact ⟨fun q => State.getD_setF_of_ne _ _ q _, fun q => State.getV_setF_of_ne _ _ q _⟩
  | separate => simp [hm, doublesAfterFloat, vectorsAfterFloat]
  | shared lowFirst =>
    intro n
    have hword (old : BitVec 32) : (if n = r then value else old) = if n = r then (s.setF r value).getF n else old :=
      ite_congr rfl (fun h => by rw [h, State.getF_setF_self]) fun _ => rfl
    rw [State.doubleWord_eq, State.doubleWord_eq, State.setF_d, hm, wordOfDouble_doublesAfterFloat, hword]
    refine ⟨rfl, ?_⟩
    rw [State.vectorWord, State.getV, State.setF_v, hm, lane_vectorsAfterFloat, hword]
    rfl

/-- The same for a double register, which is two words of the one file. -/
theorem State.onlyDouble_setD (s : State) (r : DReg) (value : BitVec 64) : OnlyDouble s (s.setD r value) r := by
  refine ⟨fun q hq => State.getD_setD_of_ne _ _ _ _ hq, ?_⟩
  cases hm : s.params.fprOverlay with
  | unstated => exact ⟨fun q => State.getF_setD_of_ne _ _ q _, fun q => State.getV_setD_of_ne _ _ q _⟩
  | separate => simp [hm, floatsAfterDouble, vectorsAfterDouble]
  | shared lowFirst =>
    intro n
    have hword (old : BitVec 32) : (if n.val / 2 = r.val then wordOfDouble lowFirst value (n.val % 2) else old) =
        if n.val / 2 = r.val then (s.setD r value).doubleWord lowFirst n else old := by
      refine ite_congr rfl (fun h => ?_) fun _ => rfl
      obtain rfl : FReg.double n = r := Fin.ext h
      simp [State.doubleWord_eq]
    refine ⟨?_, ?_⟩
    · rw [State.getF, State.setD_f, hm, getElem_floatsAfterDouble, hword]
      rfl
    · rw [State.vectorWord, State.getV, State.setD_v, hm, lane_vectorsAfterDouble, hword]
      rfl

/-- The same for lanes of a vector register, a word each. -/
theorem State.onlyVector_setLanes (s : State) (r : VReg) (lanes : Lanes) (value : Vec4) :
    OnlyVector s (s.setLanes r lanes value) r lanes := by
  refine ⟨fun q hq => State.getV_setLanes_of_ne _ _ _ _ _ hq, ?_⟩
  cases hm : s.params.fprOverlay with
  | unstated => exact ⟨fun q => State.getF_setLanes_of_ne _ _ q _ _, fun q => State.getD_setLanes_of_ne _ _ q _ _⟩
  | separate => simp [hm, floatsAfterLanes, doublesAfterLanes]
  | shared lowFirst =>
    intro n written
    have hword (old : BitVec 32) : (if written then value.lane (n.val % 4) else old) =
        if written then (s.setLanes r lanes value).vectorWord n else old := by
      refine ite_congr rfl (fun h => ?_) fun _ => rfl
      obtain rfl : FReg.vector n = r := Fin.ext h.1
      rw [State.vectorWord, State.getV_setLanes_self]
    refine ⟨?_, ?_⟩
    · rw [State.getF, State.setLanes_f, hm, getElem_floatsAfterLanes, hword]
      rfl
    · rw [State.doubleWord_eq, State.doubleWord_eq, State.setLanes_d, hm, wordOfDouble_doublesAfterLanes, hword]

/-! ### Loads of float, double and vector registers -/

/-- An instruction that loads a value, increments its address register and writes a register of the float, double and
vector views does as the statements say (42_lsu.md R256, R257). -/
theorem loadsFpr_of_load {only : State → State → Prop} {image : State → Nat → Byte}
    (write : Nat → State → State)
    (hx : exec i s = andThen (s.load sp a n) fun v => .next (write v (s.postInc base inc n)).advance)
    (hframe : ∀ v u, write v u =
      { u with f := (write v u).f, d := (write v u).d, v := (write v u).v, draws := (write v u).draws })
    (honly : ∀ v, only s (write v (s.postInc base inc n)).advance)
    (himage : ∀ v u k, k < n → image (write v u).advance k = BitVec.ofNat 8 (v / 256 ^ k)) :
    LoadsFpr i s sp base a n inc only image := by
  intro b hok hr hb
  obtain ⟨v, hv, hvalue⟩ := State.load_of_holdsBytes hok hr hb
  rw [hv, andThen_next_left] at hx
  refine ⟨_, hx, ?_, honly v, (State.onlyBase_postInc s base inc n).congr rfl rfl ?_, fun k hk => ?_⟩
  · rw [State.advance, State.nextPc_eq, hframe, State.postInc_eq]
    rfl
  · rw [hframe]
    rfl
  · rw [himage v _ k hk, hvalue k hk]

/-- Float loads (42_lsu.md R245). -/
theorem loadsFpr_of_loadFloat {r : FReg} (hx : exec i s = s.loadFloat sp r base a inc) :
    LoadsFpr i s sp base a 4 inc (fun s t => OnlyFloat s t r) fun t => byteOf (t.getF r) := by
  refine loadsFpr_of_load (fun v u => u.setF r (BitVec.ofNat 32 v)) hx (fun _ _ => rfl) (fun v => ?_)
    fun v u k hk => ?_
  · cases inc <;> exact State.onlyFloat_setF ..
  · exact (congrArg (byteOf · k) (State.getF_setF_self ..)).trans (byteOf_ofNat v (by omega))

/-- Double loads (42_lsu.md R249). -/
theorem loadsFpr_of_loadDouble {r : DReg} (hx : exec i s = s.loadDouble sp r base a inc) :
    LoadsFpr i s sp base a 8 inc (fun s t => OnlyDouble s t r) fun t => byteOf (t.getD r) := by
  refine loadsFpr_of_load (fun v u => u.setD r (BitVec.ofNat 64 v)) hx (fun _ _ => rfl) (fun v => ?_)
    fun v u k hk => ?_
  · cases inc <;> exact State.onlyDouble_setD ..
  · exact (congrArg (byteOf · k) (State.getD_setD_self ..)).trans (byteOf_ofNat v (by omega))

/-- Vector loads (42_lsu.md R241). -/
theorem loadsFpr_of_loadVector {r : VReg} (hx : exec i s = s.loadVector sp r base a inc) :
    LoadsFpr i s sp base a 16 inc (fun s t => OnlyVector s t r .xyzw) fun t => vectorByte (t.getV r) := by
  refine loadsFpr_of_load (fun v u => u.setV r (Vec4.ofNat128 v)) hx (fun _ _ => rfl) (fun v => ?_) fun v u k hk => ?_
  · cases inc <;> exact State.onlyVector_setLanes ..
  · exact (congrArg (vectorByte · k) (State.getV_setLanes_self _ r .xyzw _)).trans (vectorByte_ofNat128 v hk)

end Sys2Proof.Machine

open Sys2Proof Sys2Proof.Machine

/-- Settles O32: each is a load of a register of one of the three views at its effective address. -/
theorem floatingLoads : Obligations.FloatingLoads := by
  intro s vr fr dr base imm15 imm16 inc a a16 onlyV onlyF onlyD
  refine ⟨loadsFpr_of_loadVector ?_, loadsFpr_of_loadVector ?_, loadsFpr_of_loadFloat ?_, loadsFpr_of_loadFloat ?_,
    loadsFpr_of_loadDouble ?_, loadsFpr_of_loadDouble ?_⟩
  · exact congrArg (s.loadVector .dsram vr base · inc) (s.effAddr_eq .ldmv base imm15)
  · exact congrArg (s.loadVector .cache vr base · inc) (s.effAddr_eq .ldcv base imm15)
  · exact congrArg (s.loadFloat .dsram fr base · inc) (s.effAddr_eq .ldmf base imm15)
  · exact congrArg (s.loadFloat .cache fr base · inc) (s.effAddr_eq .ldcf base imm15)
  · exact congrArg (s.loadDouble .dsram dr base · inc) (s.effAddr_eq .ldmd base imm16)
  · exact congrArg (s.loadDouble .cache dr base · inc) (s.effAddr_eq .ldcd base imm16)

/-- Settles O33: each is a store of the memory image of its register at its effective address. -/
theorem floatingStores : Obligations.FloatingStores := by
  intro s vr fr dr base imm15 imm16 inc a a16
  have hvector := memoryImage_vectorByte (s.getV vr)
  have hfloat := memoryImage_byteOf 4 (s.getF fr)
  have hdouble := memoryImage_byteOf 8 (s.getD dr)
  refine ⟨stores_of_store (.inl rfl) hvector ?_, stores_of_store (.inr rfl) hvector ?_,
    stores_of_store (.inl rfl) hfloat ?_, stores_of_store (.inr rfl) hfloat ?_,
    stores_of_store (.inl rfl) hdouble ?_, stores_of_store (.inr rfl) hdouble ?_⟩
  · exact congrArg (s.storeWide .dsram base · 16 _ inc) (s.effAddr_eq .stmv base imm15)
  · exact congrArg (s.storeWide .cache base · 16 _ inc) (s.effAddr_eq .stcv base imm15)
  · exact congrArg (s.storeWide .dsram base · 4 _ inc) (s.effAddr_eq .stmf base imm15)
  · exact congrArg (s.storeWide .cache base · 4 _ inc) (s.effAddr_eq .stcf base imm15)
  · exact congrArg (s.storeWide .dsram base · 8 _ inc) (s.effAddr_eq .stmd base imm16)
  · exact congrArg (s.storeWide .cache base · 8 _ inc) (s.effAddr_eq .stcd base imm16)
end

section
/-! SUPPORT. Results that the spec leaves free (43_alu.md R288, R289; log 4), and the ALU instructions without an
operation: XCHG, NOP and MOVEI (R281, R283, R329). -/

namespace Sys2Proof.Machine

open Sys2Proof

/-! ### Free results -/

/-- A result that the spec leaves free is written as the numbered free value is (60_exceptions.md R449; log 4). -/
theorem State.writeResult_eq_some (s : State) (dst : Reg) (size : Size) (marked : Bool)
    (res : Option (BitVec (Size.bits size))) :
    s.writeResult dst size marked res =
      s.writeResult dst size marked (some (res.getD (Config.draw (Size.bits size) s.draws))) := rfl

/-- Whether or not the spec gives the result, an instruction that writes it to `dst` and goes on yields some N-bit
number. -/
theorem YieldsFree.of_writeResult {i : Instr} {s : State} {dst : Reg} {marked : Bool} {size : Size}
    {res : Option (BitVec (Size.bits size))} (h : exec i s = .next (s.writeResult dst size marked res).advance) :
    YieldsFree i s dst marked size := by
  rw [State.writeResult_eq_some] at h
  exact ⟨_, BitVec.isLt _, .of_writeResult h⟩

/-! ### The three forms -/

section
variable {i : Instr} {s : State} {op : (n : Nat) → BitVec n → BitVec n → Option (BitVec n)} {marked : Bool}
  {dst left right : Reg} {size : Size} {m : Mnemonic}

theorem YieldsFree.rrr (h : exec i s = s.aluRrr op marked dst left right size) : YieldsFree i s dst marked size :=
  .of_writeResult h

theorem YieldsFree.rri {value : BitVec 10} (h : exec i s = s.aluRri m op marked dst left value size) :
    YieldsFree i s dst marked size :=
  .of_writeResult h

theorem YieldsFree.ri {value : BitVec 16} (h : exec i s = s.aluRi m op marked dst value size) :
    YieldsFree i s dst marked size :=
  .of_writeResult h

end

/-! ### XCHG, NOP and MOVEI -/

/-- Going on to the next bundle changes pc alone (10_state.md R26; 40_bundle.md R168). -/
theorem State.advance_eq (s : State) : s.advance = { s with pc := s.seqPc } := by
  rw [State.advance, State.nextPc_eq, State.setPc]

/-- XCHG goes on by the width before the flip (43_alu.md R281; 40_bundle.md R169). -/
theorem exec_xchg (s : State) : exec .xchg s = .next s.advance.flipXchg := rfl

/-- NOP with End = 1 (43_alu.md R283; 40_bundle.md R170). -/
theorem exec_nop_end (s : State) : exec (.nop true) s = .next s.advance.endRun := rfl

/-- MOVEI (43_alu.md R329). -/
theorem exec_movei (s : State) (dst : Reg) (imm : BitVec 22) :
    exec (.movei dst imm) s = .next (s.setX dst (s.immExt .movei imm)).advance := rfl

end Sys2Proof.Machine

open Sys2Proof Sys2Proof.Machine

/-- Settles O27: every form of a division and of a shift writes the result of its operation or, where the operation has
none, a free value. -/
theorem aluFreeResultsComplete : Obligations.AluFreeResultsComplete := by
  intro s dst left right imm10 imm16 size
  exact ⟨.rrr rfl, .rrr rfl, .rri rfl, .rri rfl, .ri rfl, .ri rfl, .rrr rfl, .rrr rfl, .rrr rfl, .rrr rfl,
    .rri rfl, .rri rfl, .rri rfl, .rri rfl, .ri rfl, .ri rfl, .ri rfl, .ri rfl⟩

/-- Settles O28: each goes on to the next bundle, and XCHG flips the bit, NOP with End = 1 ends the run and MOVEI writes
the extended immediate, which is the pattern of its number. -/
theorem controlAndImmediateAlu : Obligations.ControlAndImmediateAlu := by
  intro s dst imm
  refine ⟨?_, ?_, ?_, ?_⟩
  · rw [exec_xchg, State.advance_eq]
    rfl
  · rw [exec_nop, State.advance_eq]
  · rw [exec_nop_end, State.advance_eq]
    rfl
  · rw [exec_movei, State.advance_eq, State.immExt_eq]
    rfl
end

section
/-! SUPPORT. The start of a transfer as its checks decide it: source range, destination range, races (44_agu.md R351). -/

namespace Sys2Proof.Machine

open Sys2Proof

variable {i : Instr} {s : State} {q : Request}

/-- The range check of the source is the statements' (44_agu.md R351 (2)). -/
theorem Request.sourceIn_iff : q.sourceIn s ↔ s.rangeInSpace q.src q.srcAddr q.len = true :=
  State.rangeInSpace_iff.symm

/-- The range check of the destination is the statements' (44_agu.md R351 (2)). -/
theorem Request.destinationIn_iff : q.destinationIn s ↔ s.rangeInSpace q.dst q.dstAddr q.len = true :=
  State.rangeInSpace_iff.symm

/-- An empty transfer does nothing (44_agu.md R351 (1)). -/
theorem exec_of_emptyTransfer (hq : Instr.transfer i s = some q) (h0 : q.len = 0) :
    exec i s = .next { s with pc := s.seqPc } := by
  rw [exec_of_transfer hq, State.startAndAdvance, State.startTransfer, if_pos h0, andThen_next_left, State.advance_eq]

/-- A transfer that is not empty goes through its checks in their order; one that passes them is appended. -/
theorem exec_of_nonemptyTransfer (hq : Instr.transfer i s = some q) (hlen : 0 < q.len) :
    exec i s =
      if !s.rangeInSpace q.src q.srcAddr q.len then .fault (.addressFault q.src q.srcAddr q.len)
      else if !s.rangeInSpace q.dst q.dstAddr q.len then .fault (.addressFault q.dst q.dstAddr q.len)
      else if s.newRaces q.record then .refused .dmaRace
      else .next { s with pc := s.seqPc, dmaq := s.dmaq ++ [q.record] } := by
  rw [exec_of_transfer hq, State.startAndAdvance, State.startTransfer, if_neg hlen.ne', State.newRaces_record]
  split_ifs
  · rfl
  · rfl
  · rfl
  · rw [andThen_next_left, State.advance_eq]
    rfl

theorem exec_of_sourceOut (hq : Instr.transfer i s = some q) (hlen : 0 < q.len) (hsrc : ¬q.sourceIn s) :
    exec i s = .fault (.addressFault q.src q.srcAddr q.len) := by
  rw [Request.sourceIn_iff] at hsrc
  simp [exec_of_nonemptyTransfer hq hlen, hsrc]

theorem exec_of_destinationOut (hq : Instr.transfer i s = some q) (hlen : 0 < q.len) (hsrc : q.sourceIn s)
    (hdst : ¬q.destinationIn s) : exec i s = .fault (.addressFault q.dst q.dstAddr q.len) := by
  rw [Request.sourceIn_iff] at hsrc
  rw [Request.destinationIn_iff] at hdst
  simp [exec_of_nonemptyTransfer hq hlen, hsrc, hdst]

/-- With both ranges in their spaces, the races decide (44_agu.md R351 (3)). -/
theorem exec_of_rangesIn (hq : Instr.transfer i s = some q) (hlen : 0 < q.len) (hsrc : q.sourceIn s)
    (hdst : q.destinationIn s) :
    exec i s = if s.newRaces q.record then .refused .dmaRace
      else .next { s with pc := s.seqPc, dmaq := s.dmaq ++ [q.record] } := by
  rw [Request.sourceIn_iff] at hsrc
  rw [Request.destinationIn_iff] at hdst
  simp [exec_of_nonemptyTransfer hq hlen, hsrc, hdst]

end Sys2Proof.Machine

open Sys2Proof Sys2Proof.Machine

/-- Settles O36: length 0 leaves all but pc, and a transfer that passes its checks is appended. -/
theorem transferStarts : Obligations.TransferStarts := by
  intro i s q hq
  refine ⟨exec_of_emptyTransfer hq, fun hlen hsrc hdst hrace => ?_⟩
  rw [exec_of_rangesIn hq hlen hsrc hdst, hrace]
  rfl

/-- Settles O37: the source range is checked first, then the destination range, and the races decide the rest. -/
theorem transferChecksInOrder : Obligations.TransferChecksInOrder := by
  intro i s q hq hlen
  refine ⟨exec_of_sourceOut hq hlen, exec_of_destinationOut hq hlen, fun hsrc hdst hrace => ?_,
    fun hsrc hdst hrace => ?_⟩
  · rw [exec_of_rangesIn hq hlen hsrc hdst, if_pos hrace]
  · exact ⟨_, (transferStarts i s q hq).2 hlen hsrc hdst hrace⟩
end

section
/-! SUPPORT. The patterns of a format: sign and magnitude, and the mantissa and the exponent that a magnitude stands for
(45_vfpu.md R371; 10_state.md R33, R34). -/

namespace Sys2Proof.Machine

open Sys2Proof

variable {fmt : FpFormat} {neg : Bool} {m p magnitude : Nat} {e : Int} {params : Params}

/-! ### Sign and magnitude -/

theorem FpFormat.isPattern_withSign (neg : Bool) (h : magnitude < 2 ^ (fmt.expBits + fmt.manBits)) :
    fmt.isPattern (fmt.withSign neg magnitude) := by
  rw [FpFormat.isPattern, Nat.add_assoc, pow_add, FpFormat.withSign]
  split <;> omega

/-- Every pattern is a sign over a magnitude. -/
theorem FpFormat.isPattern.exists_withSign (h : fmt.isPattern p) :
    ∃ neg magnitude, magnitude < 2 ^ (fmt.expBits + fmt.manBits) ∧ p = fmt.withSign neg magnitude := by
  rw [FpFormat.isPattern, Nat.add_assoc, pow_add] at h
  by_cases hp : p < 2 ^ (fmt.expBits + fmt.manBits)
  · exact ⟨false, p, hp, rfl⟩
  · exact ⟨true, p - 2 ^ (fmt.expBits + fmt.manBits), by omega, (Nat.add_sub_cancel' (not_lt.1 hp)).symm⟩

/-- The sign bit is the bit above the magnitude. -/
theorem FpFormat.withSign_div (neg : Bool) (h : magnitude < 2 ^ (fmt.expBits + fmt.manBits)) :
    fmt.withSign neg magnitude / 2 ^ (fmt.expBits + fmt.manBits) = neg.toNat := by
  cases neg
  · exact Nat.div_eq_of_lt h
  · rw [FpFormat.withSign, if_pos rfl, Nat.add_div_left _ (by positivity), Nat.div_eq_of_lt h]
    rfl

theorem FpFormat.signOf_withSign (neg : Bool) (h : magnitude < 2 ^ (fmt.expBits + fmt.manBits)) :
    fmt.signOf (fmt.withSign neg magnitude) = neg := by
  rw [FpFormat.signOf, FpFormat.withSign_div neg h]
  cases neg <;> rfl

/-- The exponent field is that of the magnitude. -/
theorem FpFormat.withSign_exponent (neg : Bool) (h : magnitude < 2 ^ (fmt.expBits + fmt.manBits)) :
    fmt.withSign neg magnitude / 2 ^ fmt.manBits % 2 ^ fmt.expBits = magnitude / 2 ^ fmt.manBits := by
  have hlt : magnitude / 2 ^ fmt.manBits < 2 ^ fmt.expBits := by
    rw [Nat.div_lt_iff_lt_mul (by positivity), ← pow_add]
    exact h
  cases neg
  · exact Nat.mod_eq_of_lt hlt
  · rw [FpFormat.withSign, if_pos rfl, pow_add, Nat.add_comm, Nat.add_mul_div_right _ _ (by positivity),
      Nat.add_mod_right, Nat.mod_eq_of_lt hlt]

/-- The mantissa field is that of the magnitude. -/
theorem FpFormat.withSign_mantissa (neg : Bool) :
    fmt.withSign neg magnitude % 2 ^ fmt.manBits = magnitude % 2 ^ fmt.manBits := by
  cases neg
  · rfl
  · rw [FpFormat.withSign, if_pos rfl, pow_add, Nat.mul_add_mod']

theorem FpFormat.unpack_withSign (neg : Bool) (h : magnitude < 2 ^ (fmt.expBits + fmt.manBits)) :
    fmt.unpack (fmt.withSign neg magnitude) =
      if magnitude / 2 ^ fmt.manBits = 2 ^ fmt.expBits - 1 then
        if magnitude % 2 ^ fmt.manBits = 0 then .inf neg else .nan
      else if magnitude / 2 ^ fmt.manBits = 0 then .fin neg (magnitude % 2 ^ fmt.manBits) fmt.minExp
      else .fin neg (2 ^ fmt.manBits + magnitude % 2 ^ fmt.manBits)
        (fmt.minExp + (magnitude / 2 ^ fmt.manBits - 1 : Nat)) := by
  have hneg : (neg.toNat % 2 == 1) = neg := by cases neg <;> rfl
  rw [FpFormat.unpack, FpFormat.withSign_div neg h, FpFormat.withSign_exponent neg h, FpFormat.withSign_mantissa, hneg]

/-- A zero or a subnormal number is kept as FP takes it, and every other pattern as it is (log 20). -/
theorem FpFormat.kept_withSign (neg : Bool) (h : magnitude < 2 ^ (fmt.expBits + fmt.manBits)) :
    fmt.kept params (fmt.withSign neg magnitude) =
      fmt.withSign neg (if params.subnormals = .flush ∧ magnitude < 2 ^ fmt.manBits then 0 else magnitude) := by
  have hsmall : magnitude / 2 ^ fmt.manBits = 0 ↔ magnitude < 2 ^ fmt.manBits := Nat.div_eq_zero_iff_lt (by positivity)
  rw [FpFormat.kept, FpFormat.withSign_exponent neg h, FpFormat.signOf_withSign neg h]
  simp only [hsmall]
  split
  · cases neg <;> rfl
  · rfl

theorem FpFormat.isPattern.kept (h : fmt.isPattern p) : fmt.isPattern (fmt.kept params p) := by
  obtain ⟨neg, magnitude, hlt, rfl⟩ := h.exists_withSign
  rw [fmt.kept_withSign neg hlt]
  split
  · exact fmt.isPattern_withSign neg (by positivity)
  · exact h

/-- What FP takes a pattern as, it takes as it is. -/
theorem FpFormat.isPattern.kept_kept (h : fmt.isPattern p) :
    fmt.kept params (fmt.kept params p) = fmt.kept params p := by
  obtain ⟨neg, magnitude, hlt, rfl⟩ := h.exists_withSign
  rw [fmt.kept_withSign neg hlt]
  split
  · rw [fmt.kept_withSign neg (by positivity), ite_self]
  · rw [fmt.kept_withSign neg hlt, if_neg ‹_›]

/-! ### Mantissa and exponent -/

/-- The magnitude of a mantissa over an exponent: exponent field and mantissa field as one sum. -/
def FpFormat.magnitudeOf (fmt : FpFormat) (m : Nat) (e : Int) : Nat := (e - fmt.minExp).toNat * 2 ^ fmt.manBits + m

/-- The lowest bit of `m * 2 ^ e` is where the format has it: the mantissa is full, or the exponent is the least. -/
structure FpFormat.Aligned (fmt : FpFormat) (m : Nat) (e : Int) : Prop where
  minExp_le : fmt.minExp ≤ e
  full : e = fmt.minExp ∨ 2 ^ fmt.manBits ≤ m

theorem FpFormat.infPattern_lt (fmt : FpFormat) : fmt.infPattern < 2 ^ (fmt.expBits + fmt.manBits) := by
  rw [FpFormat.infPattern, pow_add]
  exact Nat.mul_lt_mul_of_pos_right (Nat.sub_one_lt (by positivity)) (by positivity)

theorem FpFormat.unpack_infPattern (fmt : FpFormat) (neg : Bool) :
    fmt.unpack (fmt.withSign neg fmt.infPattern) = .inf neg := by
  rw [fmt.unpack_withSign neg fmt.infPattern_lt, FpFormat.infPattern, Nat.mul_div_cancel _ (by positivity), if_pos rfl,
    if_pos (Nat.mul_mod_left ..)]

/-- Each sign has one infinity. -/
theorem FpFormat.isPattern.eq_infPattern (h : fmt.isPattern p) (hp : fmt.unpack p = .inf neg) :
    p = fmt.withSign neg fmt.infPattern := by
  obtain ⟨sign, magnitude, hlt, rfl⟩ := h.exists_withSign
  rw [fmt.unpack_withSign sign hlt] at hp
  split_ifs at hp with hinf hman
  cases hp
  rw [FpFormat.infPattern, ← hinf, Nat.div_mul_cancel (Nat.dvd_of_mod_eq_zero hman)]

/-- The value of the pattern of an aligned mantissa below the infinity. -/
theorem FpFormat.Aligned.unpack_eq (h : fmt.Aligned m e) (hm : m < 2 ^ (fmt.manBits + 1)) (neg : Bool)
    (hfin : fmt.magnitudeOf m e < fmt.infPattern) :
    fmt.unpack (fmt.withSign neg (fmt.magnitudeOf m e)) = .fin neg m e := by
  have hpow : (0 : Nat) < 2 ^ fmt.manBits := by positivity
  have hfield : fmt.magnitudeOf m e / 2 ^ fmt.manBits ≠ 2 ^ fmt.expBits - 1 :=
    ((Nat.div_lt_iff_lt_mul hpow).2 hfin).ne
  have hle := h.minExp_le
  rw [fmt.unpack_withSign neg (hfin.trans fmt.infPattern_lt), if_neg hfield, FpFormat.magnitudeOf,
    Nat.mul_add_mod', Nat.add_comm, Nat.add_mul_div_right _ _ hpow]
  rw [pow_succ'] at hm
  by_cases hfull : 2 ^ fmt.manBits ≤ m
  · have hdiv : m / 2 ^ fmt.manBits = 1 := Nat.div_eq_of_lt_le (by omega) (by omega)
    rw [if_neg (by omega), hdiv, Nat.add_sub_cancel_left, Int.toNat_of_nonneg (by omega), Nat.mod_eq_sub_mod hfull,
      Nat.mod_eq_of_lt (by omega), Nat.add_sub_cancel' hfull, add_sub_cancel]
  · obtain rfl : e = fmt.minExp := h.full.resolve_right hfull
    rw [Nat.div_eq_of_lt (not_le.1 hfull), Nat.mod_eq_of_lt (not_le.1 hfull), sub_self, Int.toNat_zero, if_pos rfl]

/-- A finite pattern is that of an aligned mantissa below the infinity. -/
theorem FpFormat.isPattern.aligned (h : fmt.isPattern p) (hp : fmt.unpack p = .fin neg m e) :
    fmt.Aligned m e ∧ m < 2 ^ (fmt.manBits + 1) ∧ fmt.magnitudeOf m e < fmt.infPattern ∧
      p = fmt.withSign neg (fmt.magnitudeOf m e) := by
  obtain ⟨sign, magnitude, hlt, rfl⟩ := h.exists_withSign
  have hpow : (0 : Nat) < 2 ^ fmt.manBits := by positivity
  have hmod : magnitude % 2 ^ fmt.manBits < 2 ^ fmt.manBits := Nat.mod_lt _ hpow
  have hdiv := Nat.div_add_mod' magnitude (2 ^ fmt.manBits)
  have hfield : magnitude / 2 ^ fmt.manBits < 2 ^ fmt.expBits := by rwa [Nat.div_lt_iff_lt_mul hpow, ← pow_add]
  rw [fmt.unpack_withSign sign hlt] at hp
  have hbound (hne : magnitude / 2 ^ fmt.manBits ≠ 2 ^ fmt.expBits - 1) : magnitude < fmt.infPattern := by
    rw [FpFormat.infPattern, ← Nat.div_lt_iff_lt_mul hpow]
    omega
  split_ifs at hp with hinf hman hsub
  · cases hp
    have hmag : fmt.magnitudeOf (magnitude % 2 ^ fmt.manBits) fmt.minExp = magnitude := by
      rw [FpFormat.magnitudeOf, sub_self, Int.toNat_zero, Nat.zero_mul, Nat.zero_add]
      rw [hsub, Nat.zero_mul, Nat.zero_add] at hdiv
      exact hdiv
    rw [hmag, pow_succ']
    exact ⟨⟨le_rfl, .inl rfl⟩, by omega, hbound hinf, rfl⟩
  · cases hp
    have hmag : fmt.magnitudeOf (2 ^ fmt.manBits + magnitude % 2 ^ fmt.manBits)
        (fmt.minExp + (magnitude / 2 ^ fmt.manBits - 1 : Nat)) = magnitude := by
      rw [FpFormat.magnitudeOf, add_sub_cancel_left, Int.toNat_natCast, ← Nat.add_assoc, ← Nat.succ_mul,
        Nat.succ_eq_add_one, Nat.sub_add_cancel (Nat.one_le_iff_ne_zero.2 hsub), hdiv]
    rw [hmag, pow_succ']
    exact ⟨⟨by omega, .inr (by omega)⟩, by omega, hbound hinf, rfl⟩

end Sys2Proof.Machine
end

section
/-! SUPPORT. The parts of `FpFormat.round`, the exponent of the lowest bit kept and the mantissa kept, and the values of
which nothing is lost (45_vfpu.md R371). -/

namespace Sys2Proof.Machine

open Sys2Proof

variable {fmt : FpFormat} {mode : Rounding} {neg : Bool} {m man : Nat} {e exp : Int}

/-! ### The two formats -/

theorem FpFormat.ofMachine.manBits_pos (h : fmt.ofMachine) : 0 < fmt.manBits := by
  obtain rfl | rfl := h <;> decide

/-! ### The lowest bit kept -/

/-- The exponent of the lowest bit that `round` keeps. -/
def FpFormat.lowOf (fmt : FpFormat) (man : Nat) (exp : Int) : Int :=
  max (exp + (Nat.log2 man + 1 : Nat) - (fmt.manBits + 1 : Nat)) fmt.minExp

/-- The mantissa that `round` keeps. -/
def FpFormat.keptOf (fmt : FpFormat) (mode : Rounding) (neg : Bool) (man : Nat) (exp : Int) : Nat :=
  if fmt.lowOf man exp ≤ exp then man * 2 ^ (exp - fmt.lowOf man exp).toNat
  else roundShift mode neg man (fmt.lowOf man exp - exp).toNat

/-- The rounded pattern is the magnitude of the mantissa kept, unless that overflows. -/
theorem FpFormat.round_eq (hman : man ≠ 0) :
    fmt.round mode neg man exp =
      if fmt.magnitudeOf (fmt.keptOf mode neg man exp) (fmt.lowOf man exp) < fmt.infPattern then
        fmt.withSign neg (fmt.magnitudeOf (fmt.keptOf mode neg man exp) (fmt.lowOf man exp))
      else if overflowsToInf mode neg then fmt.withSign neg fmt.infPattern
      else fmt.withSign neg (fmt.infPattern - 1) := by
  rw [FpFormat.round, if_neg hman]
  rfl

theorem FpFormat.round_zero (fmt : FpFormat) (mode : Rounding) (neg : Bool) (exp : Int) :
    fmt.round mode neg 0 exp = fmt.withSign neg 0 := if_pos rfl

/-- Rounding gives a pattern with the sign of the value. -/
theorem FpFormat.round_withSign (fmt : FpFormat) (mode : Rounding) (neg : Bool) (man : Nat) (exp : Int) :
    ∃ magnitude < 2 ^ (fmt.expBits + fmt.manBits), fmt.round mode neg man exp = fmt.withSign neg magnitude := by
  have hinf := fmt.infPattern_lt
  obtain rfl | hman := eq_or_ne man 0
  · exact ⟨0, by positivity, fmt.round_zero ..⟩
  · rw [FpFormat.round_eq hman]
    split_ifs with hfin hover
    · exact ⟨_, hfin.trans hinf, rfl⟩
    · exact ⟨_, hinf, rfl⟩
    · exact ⟨_, (Nat.sub_le ..).trans_lt hinf, rfl⟩

theorem FpFormat.isPattern_round (fmt : FpFormat) (mode : Rounding) (neg : Bool) (man : Nat) (exp : Int) :
    fmt.isPattern (fmt.round mode neg man exp) := by
  obtain ⟨magnitude, hlt, h⟩ := fmt.round_withSign mode neg man exp
  exact h ▸ fmt.isPattern_withSign neg hlt

theorem FpFormat.signOf_round (fmt : FpFormat) (mode : Rounding) (neg : Bool) (man : Nat) (exp : Int) :
    fmt.signOf (fmt.round mode neg man exp) = neg := by
  obtain ⟨magnitude, hlt, h⟩ := fmt.round_withSign mode neg man exp
  rw [h, fmt.signOf_withSign neg hlt]

/-- A value that FP packs gives a pattern. -/
theorem FpFormat.isPattern_pack {v : FpValue} {r : Nat} (h : fmt.pack mode v = some r) : fmt.isPattern r := by
  cases v with
  | nan => cases h
  | inf neg => cases h; exact fmt.isPattern_withSign neg fmt.infPattern_lt
  | fin neg man exp => cases h; exact fmt.isPattern_round ..

/-- A result is the pattern of the value as FP takes it (log 20). -/
theorem FpFormat.result_eq (fmt : FpFormat) (params : Params) (v : FpValue) :
    fmt.result params v = (fmt.pack params.rounding v).map (fmt.kept params) := by
  rw [FpFormat.result]
  exact Option.map_congr fun r hr => FpFormat.flushed_eq_kept params (FpFormat.isPattern_pack hr)

/-! ### Values by their exponents -/

/-- The exponent of the highest bit of a value. -/
theorem log_mul_zpow (hman : man ≠ 0) (exp : Int) : Int.log 2 ((man : ℚ) * 2 ^ exp) = exp + Nat.log2 man := by
  have hpos : (0 : ℚ) < man * 2 ^ exp := by positivity
  have hscale (k : Nat) : (2 : ℚ) ^ (exp + k) = (2 ^ k : Nat) * 2 ^ exp := by
    rw [zpow_add₀ two_ne_zero, zpow_natCast, mul_comm, Nat.cast_pow, Nat.cast_ofNat]
  apply le_antisymm
  · rw [← Int.lt_add_one_iff, ← Int.lt_zpow_iff_log_lt one_lt_two hpos, add_assoc, ← Nat.cast_succ, Nat.cast_ofNat,
      hscale]
    exact mul_lt_mul_of_pos_right (Nat.cast_lt.2 Nat.lt_log2_self) (by positivity)
  · rw [← Int.zpow_le_iff_le_log one_lt_two hpos, Nat.cast_ofNat, hscale]
    exact mul_le_mul_of_nonneg_right (Nat.cast_le.2 (Nat.log2_self_le hman)) (by positivity)

/-- Equal values have the same lowest bit kept. -/
theorem FpFormat.lowOf_congr (hman : man ≠ 0) (hm : m ≠ 0) (h : (man : ℚ) * 2 ^ exp = m * 2 ^ e) :
    fmt.lowOf man exp = fmt.lowOf m e := by
  have hlog : exp + (Nat.log2 man : Int) = e + Nat.log2 m := by rw [← log_mul_zpow hman, h, log_mul_zpow hm]
  rw [FpFormat.lowOf, FpFormat.lowOf]
  omega

/-- The lowest bit kept of an aligned mantissa is its own. -/
theorem FpFormat.Aligned.lowOf_eq (h : fmt.Aligned m e) (hm : m < 2 ^ (fmt.manBits + 1)) (h0 : m ≠ 0) :
    fmt.lowOf m e = e := by
  have hlt : Nat.log2 m < fmt.manBits + 1 := (Nat.log2_lt h0).2 hm
  have hle := h.minExp_le
  rw [FpFormat.lowOf]
  obtain rfl | hfull := h.full
  · omega
  · have := (Nat.le_log2 h0).2 hfull
    omega

/-- Where nothing is discarded, no rounding direction goes up. -/
theorem roundsUp_zero (mode : Rounding) (neg odd : Bool) (k : Nat) : roundsUp mode neg odd 0 k = false := by
  cases mode <;> simp [roundsUp, (Nat.two_pow_pos k).ne]

/-- Nothing is lost of a mantissa whose last bits are 0. -/
theorem roundShift_mul_pow (mode : Rounding) (neg : Bool) (m k : Nat) : roundShift mode neg (m * 2 ^ k) k = m := by
  rw [roundShift, Nat.mul_mod_left, roundsUp_zero, Nat.mul_div_cancel _ (by positivity)]
  rfl

/-- Every rounding direction keeps a value that has no bit below the lowest one kept. -/
theorem FpFormat.keptOf_eq (mode : Rounding) (neg : Bool)
    (h : (man : ℚ) * 2 ^ exp = m * 2 ^ fmt.lowOf man exp) : fmt.keptOf mode neg man exp = m := by
  rw [FpFormat.keptOf]
  generalize fmt.lowOf man exp = low at h ⊢
  have hcast (a b : Nat) (i j : Int) (hij : i ≤ j) (hab : (a : ℚ) * 2 ^ i = b * 2 ^ j) : a = b * 2 ^ (j - i).toNat := by
    obtain ⟨k, rfl⟩ := Int.le.dest hij
    rw [zpow_add₀ two_ne_zero, mul_left_comm, mul_comm, zpow_natCast, mul_right_inj' (by positivity)] at hab
    rw [add_sub_cancel_left, Int.toNat_natCast]
    exact_mod_cast hab
  split
  · exact (hcast _ _ _ _ ‹_› h.symm).symm
  · rw [hcast _ _ _ _ (not_le.1 ‹_›).le h, roundShift_mul_pow]

/-- A value that the format has is rounded to its pattern in every direction. -/
theorem FpFormat.Aligned.round_eq (h : fmt.Aligned m e) (hm : m < 2 ^ (fmt.manBits + 1))
    (hfin : fmt.magnitudeOf m e < fmt.infPattern) (hv : (man : ℚ) * 2 ^ exp = m * 2 ^ e) :
    fmt.round mode neg man exp = fmt.withSign neg (fmt.magnitudeOf m e) := by
  have htwo (k : Int) : (2 : ℚ) ^ k ≠ 0 := by positivity
  obtain rfl | hman := eq_or_ne man 0
  · obtain rfl : m = 0 := by simpa [htwo] using hv.symm
    obtain rfl : e = fmt.minExp := h.full.resolve_right (by simp)
    rw [fmt.round_zero, FpFormat.magnitudeOf, sub_self, Int.toNat_zero, Nat.zero_mul]
  · have hm0 : m ≠ 0 := by
      rintro rfl
      simp [htwo, hman] at hv
    have hlow : fmt.lowOf man exp = e := (fmt.lowOf_congr hman hm0 hv).trans (h.lowOf_eq hm hm0)
    rw [FpFormat.round_eq hman, FpFormat.keptOf_eq mode neg (hlow ▸ hv), hlow, if_pos hfin]

end Sys2Proof.Machine

open Sys2Proof Sys2Proof.Machine

/-- Settles O55: an infinity packs to its pattern, and a finite value is aligned, so that nothing is lost of it. -/
theorem packingAnUnpackedPattern : Obligations.PackingAnUnpackedPattern := by
  intro fmt mode p _ hp hnan
  cases hv : fmt.unpack p with
  | nan => exact absurd hv hnan
  | inf neg =>
    rw [FpFormat.pack, ← hp.eq_infPattern hv]
  | fin neg m e =>
    obtain ⟨haligned, hm, hfin, hpattern⟩ := hp.aligned hv
    rw [FpFormat.pack, haligned.round_eq hm hfin rfl, ← hpattern]
end

section
/-! SUPPORT. Rounding to nearest, ties to even (45_vfpu.md R371): the mantissa kept is the integer nearest to the scaled
value, and the pattern built from it stands for the nearest number of the format. -/

namespace Sys2Proof.Machine

open Sys2Proof

variable {fmt : FpFormat} {neg : Bool} {m n man s r : Nat} {e exp low : Int} {x y z : ℝ}

/-! ### The nearest integer -/

/-- `n` is an integer nearest to `y`, the even one of two. -/
def RoundsTo (n : Nat) (y : ℝ) : Prop := |n - y| ≤ 1 / 2 ∧ (|n - y| = 1 / 2 → n % 2 = 0)

theorem RoundsTo.self (n : Nat) : RoundsTo n n := by
  constructor <;> norm_num

theorem RoundsTo.of_lt (h : |n - y| < 1 / 2) : RoundsTo n y := ⟨h.le, fun h' => absurd h' h.ne⟩

/-- No integer is closer. -/
theorem RoundsTo.le_int (h : RoundsTo n y) (i : Int) :
    |n - y| ≤ |i - y| ∧ ((i : ℝ) ≠ n → |n - y| = |i - y| → n % 2 = 0) := by
  obtain rfl | hne := eq_or_ne i (n : Int)
  · rw [Int.cast_natCast]
    exact ⟨le_rfl, fun h => absurd rfl h⟩
  · have hone : (1 : ℝ) ≤ |(i : ℝ) - n| := by exact_mod_cast Int.one_le_abs (sub_ne_zero.2 hne)
    have hsum : |(i : ℝ) - n| ≤ |i - y| + |n - y| := by
      rw [abs_sub_comm (n : ℝ)]
      exact abs_sub_le ..
    obtain ⟨hle, htie⟩ := h
    exact ⟨by linarith, fun _ heq => htie (by linarith)⟩

/-- Up above the middle between two integers, down below it, and to the even one in the middle. -/
theorem roundsTo_ite {q : Nat} (up : Bool) (hlow : (q : ℝ) ≤ y) (hhigh : y ≤ q + 1)
    (hup : up = true → q + 1 / 2 < y ∨ y = q + 1 / 2 ∧ q % 2 = 1)
    (hdown : up = false → y < q + 1 / 2 ∨ y = q + 1 / 2 ∧ q % 2 = 0) : RoundsTo (if up then q + 1 else q) y := by
  cases up with
  | true =>
    have habs : |((q + 1 : Nat) : ℝ) - y| = q + 1 - y := by
      rw [Nat.cast_succ, abs_of_nonneg (by linarith)]
    obtain h | ⟨h, hodd⟩ := hup rfl
    · exact .of_lt (by rw [if_pos rfl, habs]; linarith)
    · exact ⟨by rw [if_pos rfl, habs]; linarith, fun _ => by rw [if_pos rfl]; omega⟩
  | false =>
    have habs : |(q : ℝ) - y| = y - q := by rw [abs_sub_comm, abs_of_nonneg (by linarith)]
    obtain h | ⟨h, heven⟩ := hdown rfl
    · exact .of_lt (by rw [if_neg nofun, habs]; linarith)
    · exact ⟨by rw [if_neg nofun, habs]; linarith, fun _ => heven⟩

/-- The value is the mantissa itself or, where the last bit of the mantissa says that something remains, within one of
it. -/
def Sticky (man : Nat) (z : ℝ) : Prop := z = man ∨ man % 2 = 1 ∧ |z - man| < 1

/-- The value lies as the mantissa does to every even integer. -/
theorem Sticky.compare (h : Sticky man z) {c : Nat} (hc : c % 2 = 0 ∨ z = man) :
    (man < c → z < c) ∧ (c < man → c < z) ∧ (man = c → z = c) := by
  obtain rfl | ⟨hodd, habs⟩ := h
  · exact ⟨Nat.cast_lt.2, Nat.cast_lt.2, congrArg _⟩
  · rw [abs_lt] at habs
    obtain hc | rfl := hc
    · refine ⟨fun hlt => ?_, fun hlt => ?_, fun heq => by omega⟩
      · have : (man : ℝ) + 1 ≤ c := by exact_mod_cast hlt
        linarith
      · have : (c : ℝ) + 1 ≤ man := by exact_mod_cast hlt
        linarith
    · exact ⟨Nat.cast_lt.2, Nat.cast_lt.2, congrArg _⟩

theorem roundsUp_nearestEven {odd : Bool} {low shift : Nat} :
    roundsUp .nearestEven neg odd low shift = true ↔ 2 ^ shift < 2 * low ∨ 2 * low = 2 ^ shift ∧ odd = true := by
  simp [roundsUp]

/-- Rounding goes up to an even integer from the middle below it on. -/
theorem RoundsTo.lt_iff_of_even (h : RoundsTo n y) {c : Nat} (hc : c % 2 = 0) :
    y < c - 1 / 2 ↔ n < c := by
  obtain ⟨hnear, htie⟩ := h
  rw [abs_le] at hnear
  constructor
  · intro hlt
    have : (n : ℝ) < c := by linarith
    exact_mod_cast this
  · intro hlt
    have hn : (n : ℝ) + 1 ≤ c := by exact_mod_cast hlt
    by_contra hge
    have heq : y = n + 1 / 2 := by linarith
    have := htie (by rw [heq]; norm_num [abs_of_pos])
    have : (c : ℝ) = n + 1 := by linarith
    have : c = n + 1 := by exact_mod_cast this
    omega

/-- A shifted mantissa is rounded to nearest; where its last bit says that something remains, two bits are shifted out.
-/
theorem roundsTo_roundShift (neg : Bool) {k : Nat} (hz : Sticky man z) (hk : 0 < k ∨ z = man) :
    RoundsTo (roundShift .nearestEven neg man (k + 1)) (z / 2 ^ (k + 1)) := by
  have hpos : (0 : ℝ) < 2 ^ (k + 1) := by positivity
  have hrem : man % 2 ^ (k + 1) < 2 ^ (k + 1) := Nat.mod_lt _ (by positivity)
  have hdiv := Nat.div_add_mod' man (2 ^ (k + 1))
  have heven (c : Nat) : c * 2 ^ k % 2 = 0 ∨ z = man :=
    hk.imp_left fun hk => by rw [← Nat.sub_add_cancel hk, pow_succ, ← mul_assoc, Nat.mul_mod_left]
  rw [roundShift]
  generalize man % 2 ^ (k + 1) = rem at hrem hdiv ⊢
  generalize man / 2 ^ (k + 1) = q at hdiv ⊢
  obtain ⟨-, hqlt, hqeq⟩ := hz.compare (heven (2 * q))
  obtain ⟨hq1lt, -, -⟩ := hz.compare (heven (2 * (q + 1)))
  obtain ⟨hmlt, hmgt, hmeq⟩ := hz.compare (heven (2 * q + 1))
  rw [pow_succ] at hrem hdiv hpos ⊢
  push_cast at hqlt hqeq hq1lt hmlt hmgt hmeq
  have hmul : q * (2 ^ k * 2) = 2 * q * 2 ^ k := by ring
  have hmul1 : 2 * (q + 1) * 2 ^ k = 2 * q * 2 ^ k + 2 * 2 ^ k := by ring
  have hmul2 : (2 * q + 1) * 2 ^ k = 2 * q * 2 ^ k + 2 ^ k := by ring
  rw [hmul] at hdiv
  rw [hmul1] at hq1lt
  rw [hmul2] at hmlt hmgt hmeq
  refine roundsTo_ite _ ?_ ?_ (fun h => ?_) fun h => ?_
  · rw [le_div_iff₀ hpos]
    obtain h | h := (show 2 * q * 2 ^ k ≤ man by omega).lt_or_eq
    · linarith [hqlt h]
    · linarith [hqeq h.symm]
  · rw [div_le_iff₀ hpos]
    linarith [hq1lt (by omega)]
  · rw [lt_div_iff₀ hpos, div_eq_iff hpos.ne']
    rw [roundsUp_nearestEven, beq_iff_eq, pow_succ] at h
    refine h.imp (fun h => ?_) fun ⟨h, hodd⟩ => ⟨?_, hodd⟩
    · linarith [hmgt (by omega)]
    · linarith [hmeq (by omega)]
  · rw [div_lt_iff₀ hpos, div_eq_iff hpos.ne']
    rw [Bool.eq_false_iff, Ne, roundsUp_nearestEven, beq_iff_eq, pow_succ] at h
    obtain hlt | heq := (show 2 * rem ≤ 2 ^ k * 2 by omega).lt_or_eq
    · exact .inl (by linarith [hmlt (by omega)])
    · exact .inr ⟨by linarith [hmeq (by omega)], by omega⟩

/-! ### The mantissa kept -/

/-- A value that rounds as `man * 2 ^ exp` does: it is that number or, where the last bit of the mantissa says that
something remains, within one of it, and the mantissa has two bits more than the format keeps. -/
structure FpFormat.RoundsAs (fmt : FpFormat) (x : ℝ) (man : Nat) (exp : Int) : Prop where
  sticky : Sticky man (x / 2 ^ exp)
  wide : 2 ^ (fmt.manBits + 2) ≤ man ∨ x / 2 ^ exp = man

theorem FpFormat.roundsAs_self (fmt : FpFormat) (man : Nat) (exp : Int) :
    fmt.RoundsAs ((man : ℝ) * 2 ^ exp) man exp := by
  have hself : (man : ℝ) * 2 ^ exp / 2 ^ exp = man := mul_div_cancel_right₀ _ (by positivity)
  exact ⟨.inl hself, .inr hself⟩

theorem FpFormat.lowOf_le (fmt : FpFormat) (man : Nat) (exp : Int) : fmt.minExp ≤ fmt.lowOf man exp := le_max_right ..

section
variable (h : fmt.RoundsAs x man exp) (hman : man ≠ 0)
include h hman

/-- The highest bit of the mantissa is that of the value. -/
theorem FpFormat.RoundsAs.log2_bounds :
    2 ^ (Nat.log2 man : Int) * 2 ^ exp ≤ x ∧ x < 2 ^ (Nat.log2 man + 1 : Int) * 2 ^ exp := by
  have hpos : (0 : ℝ) < 2 ^ exp := by positivity
  have hself : 2 ^ Nat.log2 man ≤ man := Nat.log2_self_le hman
  have hlt : man < 2 ^ (Nat.log2 man + 1) := Nat.lt_log2_self
  have heven (k : Nat) (hk : Nat.log2 man ≤ k) : 2 ^ k % 2 = 0 ∨ x / 2 ^ exp = man := by
    refine h.wide.imp_left fun hwide => ?_
    have hk0 : k ≠ 0 := by
      have := (Nat.le_log2 hman).2 hwide
      omega
    exact Nat.mod_eq_zero_of_dvd (dvd_pow_self 2 hk0)
  obtain ⟨-, hlow, heq⟩ := h.sticky.compare (heven _ le_rfl)
  obtain ⟨hhigh, -, -⟩ := h.sticky.compare (heven _ (Nat.le_succ _))
  have hle : ((2 ^ Nat.log2 man : Nat) : ℝ) ≤ x / 2 ^ exp := by
    obtain hlt | heq' := hself.lt_or_eq
    · exact (hlow hlt).le
    · exact (heq heq'.symm).ge
  rw [le_div_iff₀ hpos] at hle
  rw [div_lt_iff₀ hpos] at hhigh
  constructor
  · exact_mod_cast hle
  · exact_mod_cast hhigh hlt

/-- The value over the lowest bit kept is below twice the mantissas of the format, and not below them unless that bit is
the lowest of the format. -/
theorem FpFormat.RoundsAs.scaled_bounds :
    x / 2 ^ fmt.lowOf man exp < 2 ^ (fmt.manBits + 1) ∧
      (fmt.minExp < fmt.lowOf man exp → 2 ^ fmt.manBits ≤ x / 2 ^ fmt.lowOf man exp) := by
  obtain ⟨hlow, hhigh⟩ := h.log2_bounds hman
  have hpow (k : Nat) : (2 : ℝ) ^ k * 2 ^ fmt.lowOf man exp = 2 ^ (k + fmt.lowOf man exp) := by
    rw [← zpow_natCast, zpow_add₀ two_ne_zero]
  rw [div_lt_iff₀ (by positivity), hpow]
  rw [← zpow_add₀ two_ne_zero] at hlow hhigh
  refine ⟨hhigh.trans_le (zpow_le_zpow_right₀ one_le_two ?_), fun hlt => ?_⟩
  · rw [FpFormat.lowOf]
    omega
  · rw [le_div_iff₀ (by positivity), hpow]
    refine (zpow_le_zpow_right₀ one_le_two ?_).trans hlow
    rw [FpFormat.lowOf] at hlt ⊢
    omega

/-- The mantissa kept is the integer nearest to the value over the lowest bit kept. -/
theorem FpFormat.RoundsAs.roundsTo_keptOf :
    RoundsTo (fmt.keptOf .nearestEven neg man exp) (x / 2 ^ fmt.lowOf man exp) := by
  have hscale (low : Int) : x / 2 ^ low = x / 2 ^ exp * 2 ^ (exp - low) := by
    rw [zpow_sub₀ two_ne_zero, div_mul_div_cancel₀ (by positivity)]
  rw [FpFormat.keptOf, hscale]
  have hwide : 2 ^ (fmt.manBits + 2) ≤ man → exp + 2 ≤ fmt.lowOf man exp := fun hwide => by
    have := (Nat.le_log2 hman).2 hwide
    rw [FpFormat.lowOf]
    omega
  generalize fmt.lowOf man exp = low at hwide ⊢
  split
  · have hexact : x / 2 ^ exp = man := h.wide.resolve_left fun h => by have := hwide h; omega
    obtain ⟨k, rfl⟩ := Int.le.dest ‹low ≤ exp›
    rw [hexact, add_sub_cancel_left, Int.toNat_natCast, zpow_natCast]
    exact_mod_cast RoundsTo.self (man * 2 ^ k)
  · obtain ⟨k, rfl⟩ := Int.lt.dest (not_le.1 ‹¬low ≤ exp›)
    rw [sub_add_cancel_left, add_sub_cancel_left, Int.toNat_natCast, zpow_neg, zpow_natCast, ← div_eq_mul_inv]
    exact roundsTo_roundShift neg h.sticky (h.wide.imp_left fun h => by have := hwide h; omega)

end

/-! ### The nearest number -/

/-- A number `±m * 2 ^ e` whose mantissa and exponent are in the range of the format. -/
def FpFormat.InRange (fmt : FpFormat) (x : ℝ) : Prop :=
  ∃ (neg : Bool) (m : Nat) (e : Int), fmt.minExp ≤ e ∧ m < 2 ^ (fmt.manBits + 1) ∧
    x = (if neg then -1 else 1) * (m : ℝ) * 2 ^ e

theorem FpFormat.InRange.negate (h : fmt.InRange x) : fmt.InRange (-x) := by
  obtain ⟨neg, m, e, hle, hm, rfl⟩ := h
  exact ⟨!neg, m, e, hle, hm, by cases neg <;> simp⟩

theorem FpFormat.InRange.sign_mul (h : fmt.InRange x) (neg : Bool) : fmt.InRange ((if neg then -1 else 1) * x) := by
  cases neg
  · simpa using h
  · simpa using h.negate

/-- The number of a pattern is in range. -/
theorem FpFormat.isPattern.inRange {p : Nat} {q : ℚ} (h : fmt.isPattern p) (hq : fmt.number p = some q) :
    fmt.InRange q := by
  rw [FpFormat.number] at hq
  cases hv : fmt.unpack p with
  | nan | inf => rw [hv] at hq; cases hq
  | fin neg m e =>
    rw [hv] at hq
    cases hq
    obtain ⟨haligned, hm, -, -⟩ := h.aligned hv
    exact ⟨neg, m, e, haligned.minExp_le, hm, by cases neg <;> simp⟩

/-- Where the value over a lowest bit kept rounds to `n`, no number in range is closer to it. -/
theorem RoundsTo.le_inRange (hn : RoundsTo n (x / 2 ^ low))
    (hfull : low ≤ fmt.minExp ∨ 2 ^ fmt.manBits ≤ x / 2 ^ low) (hy : fmt.InRange y) :
    |(n : ℝ) * 2 ^ low - x| ≤ |y - x| ∧
      (y ≠ (n : ℝ) * 2 ^ low → |(n : ℝ) * 2 ^ low - x| = |y - x| → n % 2 = 0) := by
  have hpos : (0 : ℝ) < 2 ^ low := by positivity
  have hscale (a : ℝ) : |a * 2 ^ low - x| = |a - x / 2 ^ low| * 2 ^ low := by
    rw [← abs_of_pos hpos, ← abs_mul, abs_of_pos hpos, sub_mul, div_mul_cancel₀ _ hpos.ne']
  obtain ⟨neg, m, e, hle, hm, rfl⟩ := hy
  generalize hz : x / 2 ^ low = z at hn hfull hscale
  by_cases hlow : low ≤ e
  · obtain ⟨k, rfl⟩ := Int.le.dest hlow
    have hint : (if neg then -1 else 1) * (m : ℝ) * 2 ^ (low + k) =
        (((if neg then -1 else 1) * (m : Int) * 2 ^ k : Int) : ℝ) * 2 ^ low := by
      rw [zpow_add₀ two_ne_zero, zpow_natCast]
      push_cast
      ring
    obtain ⟨hmin, htie⟩ := hn.le_int ((if neg then -1 else 1) * (m : Int) * 2 ^ k)
    rw [hint, hscale, hscale, mul_left_inj' hpos.ne', Ne, mul_left_inj' hpos.ne']
    exact ⟨mul_le_mul_of_nonneg_right hmin hpos.le, htie⟩
  · have hfull' : 2 ^ fmt.manBits ≤ z := hfull.resolve_left (by omega)
    obtain ⟨hmin, -⟩ := hn.le_int (2 ^ fmt.manBits : Nat)
    rw [Int.cast_natCast, Nat.cast_pow, Nat.cast_ofNat, abs_sub_comm (2 ^ _),
      abs_of_nonneg (sub_nonneg.2 hfull')] at hmin
    have hx : x = z * 2 ^ low := (div_eq_iff hpos.ne').1 hz
    have hsign : (if neg then -1 else 1) * (m : ℝ) < 2 ^ (fmt.manBits + 1) := by
      have hm' : (m : ℝ) < 2 ^ (fmt.manBits + 1) := by exact_mod_cast hm
      cases neg
      · simpa using hm'
      · simpa using (neg_nonpos.2 (Nat.cast_nonneg m)).trans_lt (by positivity)
    have hbelow : (if neg then -1 else 1) * (m : ℝ) * 2 ^ e < 2 ^ fmt.manBits * 2 ^ low := by
      calc (if neg then -1 else 1) * (m : ℝ) * 2 ^ e < 2 ^ (fmt.manBits + 1) * 2 ^ e :=
            mul_lt_mul_of_pos_right hsign (by positivity)
        _ = 2 ^ fmt.manBits * 2 ^ (e + 1) := by rw [pow_succ, zpow_add_one₀ two_ne_zero]; ring
        _ ≤ 2 ^ fmt.manBits * 2 ^ low :=
            mul_le_mul_of_nonneg_left (zpow_le_zpow_right₀ one_le_two (by omega)) (by positivity)
    have hlt : |(n : ℝ) * 2 ^ low - x| < |(if neg then -1 else 1) * (m : ℝ) * 2 ^ e - x| := by
      rw [hscale, abs_sub_comm _ x]
      calc |(n : ℝ) - z| * 2 ^ low ≤ (z - 2 ^ fmt.manBits) * 2 ^ low := mul_le_mul_of_nonneg_right hmin hpos.le
        _ = x - 2 ^ fmt.manBits * 2 ^ low := by rw [hx, sub_mul]
        _ < x - (if neg then -1 else 1) * (m : ℝ) * 2 ^ e := sub_lt_sub_left hbelow x
        _ ≤ _ := le_abs_self _
    exact ⟨hlt.le, fun _ h => absurd h hlt.ne⟩

/-! ### Overflow -/

/-- The exponent of the lowest mantissa bit of the largest numbers. -/
def FpFormat.maxExp (fmt : FpFormat) : Int := fmt.minExp + (2 ^ fmt.expBits - 3)

theorem FpFormat.ofMachine.maxExp_add (h : fmt.ofMachine) :
    fmt.maxExp + fmt.manBits = (2 ^ (fmt.expBits - 1) - 1 : Nat) := by
  obtain rfl | rfl := h <;> rfl

theorem FpFormat.ofMachine.infPattern_eq (h : fmt.ofMachine) :
    fmt.infPattern = ((fmt.maxExp - fmt.minExp).toNat + 2) * 2 ^ fmt.manBits := by
  obtain rfl | rfl := h <;> rfl

theorem FpFormat.ofMachine.minExp_lt (h : fmt.ofMachine) : fmt.minExp < fmt.maxExp := by
  obtain rfl | rfl := h <;> decide

/-- Half a unit above the largest number. -/
theorem FpFormat.ofMachine.overflow_eq (h : fmt.ofMachine) :
    (fmt.overflow : ℝ) = (2 ^ (fmt.manBits + 1) - 1 / 2) * 2 ^ fmt.maxExp := by
  have hpow : (2 : ℝ) ^ (2 ^ (fmt.expBits - 1) - 1) = 2 ^ fmt.manBits * 2 ^ fmt.maxExp := by
    rw [← zpow_natCast, ← h.maxExp_add, zpow_add₀ two_ne_zero, zpow_natCast, mul_comm]
  rw [FpFormat.overflow]
  push_cast
  rw [hpow, pow_succ]
  field_simp

/-- The pattern of an aligned mantissa is below the infinity where its exponent is below the largest, or is that and the
mantissa does not carry. -/
theorem FpFormat.ofMachine.magnitudeOf_lt_iff (h : fmt.ofMachine) (haligned : fmt.Aligned m e)
    (hm : m ≤ 2 ^ (fmt.manBits + 1)) :
    fmt.magnitudeOf m e < fmt.infPattern ↔ e < fmt.maxExp ∨ e = fmt.maxExp ∧ m < 2 ^ (fmt.manBits + 1) := by
  have hmin := haligned.minExp_le
  have hfull := haligned.full
  have hmax := h.minExp_lt
  rw [h.infPattern_eq, FpFormat.magnitudeOf, pow_succ]
  rw [pow_succ] at hm
  have hmul {a b : Nat} (hab : a ≤ b) : a * 2 ^ fmt.manBits ≤ b * 2 ^ fmt.manBits := Nat.mul_le_mul_right _ hab
  have hpow : 0 < 2 ^ fmt.manBits := by positivity
  obtain hlt | rfl | hgt := lt_trichotomy e fmt.maxExp
  · have := hmul (show (e - fmt.minExp).toNat + 1 ≤ (fmt.maxExp - fmt.minExp).toNat by omega)
    simp only [Nat.add_mul] at this ⊢
    exact iff_of_true (by omega) (.inl hlt)
  · simp only [Nat.add_mul, lt_self_iff_false, false_or, true_and]
    omega
  · have := hmul (show (fmt.maxExp - fmt.minExp).toNat + 1 ≤ (e - fmt.minExp).toNat by omega)
    simp only [Nat.add_mul] at this ⊢
    exact iff_of_false (by omega) (by omega)

/-- A carry of the mantissa goes to the exponent. -/
theorem FpFormat.magnitudeOf_carry (h : fmt.minExp ≤ e) :
    fmt.magnitudeOf (2 ^ (fmt.manBits + 1)) e = fmt.magnitudeOf (2 ^ fmt.manBits) (e + 1) := by
  rw [FpFormat.magnitudeOf, FpFormat.magnitudeOf, show (e + 1 - fmt.minExp).toNat = (e - fmt.minExp).toNat + 1 by omega]
  ring

/-- The number of the pattern of an aligned mantissa below the infinity, a carry included. -/
theorem FpFormat.Aligned.number_eq (h : fmt.Aligned m e) (hm : m ≤ 2 ^ (fmt.manBits + 1)) (neg : Bool)
    (hfin : fmt.magnitudeOf m e < fmt.infPattern) :
    fmt.number (fmt.withSign neg (fmt.magnitudeOf m e)) = some ((if neg then -1 else 1) * (m : ℚ) * 2 ^ e) := by
  rw [FpFormat.number]
  obtain hlt | rfl := hm.lt_or_eq
  · rw [h.unpack_eq hlt neg hfin]
  · have hle := h.minExp_le
    have hcarry : fmt.Aligned (2 ^ fmt.manBits) (e + 1) := ⟨by omega, .inr le_rfl⟩
    rw [fmt.magnitudeOf_carry hle] at hfin ⊢
    rw [hcarry.unpack_eq (Nat.pow_lt_pow_right one_lt_two (Nat.lt_succ_self _)) neg hfin]
    simp only [Nat.cast_pow, Nat.cast_ofNat, Option.some_inj]
    rw [zpow_add_one₀ two_ne_zero, pow_succ]
    ring

/-! ### Rounding to nearest -/

/-- As `FpFormat.nearest`, for a real number. -/
def FpFormat.NearestReal (fmt : FpFormat) (r : Nat) (x : ℝ) : Prop :=
  ∃ q, fmt.number r = some q ∧ ∀ p q', fmt.isPattern p → fmt.number p = some q' →
    |(q : ℝ) - x| ≤ |(q' : ℝ) - x| ∧ ((q' : ℝ) ≠ q → |(q : ℝ) - x| = |(q' : ℝ) - x| → r % 2 = 0)

theorem FpFormat.nearestReal_iff {x : ℚ} : fmt.NearestReal r x ↔ fmt.nearest r x := by
  simp only [FpFormat.NearestReal, FpFormat.nearest, ← Rat.cast_sub, ← Rat.cast_abs, Rat.cast_le, ne_eq, Rat.cast_inj]

/-- The last bit of a pattern is that of its mantissa. -/
theorem FpFormat.ofMachine.withSign_magnitudeOf_mod (h : fmt.ofMachine) (neg : Bool) (m : Nat) (e : Int) :
    fmt.withSign neg (fmt.magnitudeOf m e) % 2 = m % 2 := by
  have hdvd (k : Nat) (hk : 0 < k) : 2 ∣ 2 ^ k := dvd_pow_self 2 hk.ne'
  have hman := (hdvd _ h.manBits_pos).mul_left (e - fmt.minExp).toNat
  have hsign := hdvd _ (h.manBits_pos.trans_le (Nat.le_add_left _ fmt.expBits))
  cases neg
  · rw [FpFormat.withSign, if_neg nofun, FpFormat.magnitudeOf]
    omega
  · rw [FpFormat.withSign, if_pos rfl, FpFormat.magnitudeOf]
    omega

section
variable (h : fmt.RoundsAs x man exp) (hman : man ≠ 0)
include h hman

/-- The mantissa kept is aligned, and at most a carry. -/
theorem FpFormat.RoundsAs.aligned_keptOf :
    fmt.Aligned (fmt.keptOf .nearestEven neg man exp) (fmt.lowOf man exp) ∧
      fmt.keptOf .nearestEven neg man exp ≤ 2 ^ (fmt.manBits + 1) := by
  obtain ⟨hhigh, hlow⟩ := h.scaled_bounds hman
  obtain ⟨hnear, -⟩ := h.roundsTo_keptOf (neg := neg) hman
  generalize fmt.keptOf .nearestEven neg man exp = n at hnear ⊢
  rw [abs_le] at hnear
  have hle : (n : ℝ) < (2 ^ (fmt.manBits + 1) + 1 : Nat) := by
    push_cast
    linarith
  refine ⟨⟨fmt.lowOf_le man exp, (fmt.lowOf_le man exp).eq_or_lt'.imp_right fun hlt => ?_⟩,
    Nat.lt_succ_iff.1 (Nat.cast_lt.1 hle)⟩
  have hge : ((2 ^ fmt.manBits : Nat) : ℝ) < (n + 1 : Nat) := by
    push_cast
    linarith [hlow hlt]
  exact Nat.lt_succ_iff.1 (Nat.cast_lt.1 hge)

/-- Rounding overflows exactly where the value is too large. -/
theorem FpFormat.RoundsAs.lt_overflow_iff (hfmt : fmt.ofMachine) :
    x < fmt.overflow ↔ fmt.magnitudeOf (fmt.keptOf .nearestEven neg man exp) (fmt.lowOf man exp) < fmt.infPattern := by
  obtain ⟨haligned, hle⟩ := h.aligned_keptOf (neg := neg) hman
  obtain ⟨hhigh, hlow⟩ := h.scaled_bounds hman
  have hround := h.roundsTo_keptOf (neg := neg) hman
  rw [hfmt.magnitudeOf_lt_iff haligned hle, hfmt.overflow_eq]
  generalize fmt.keptOf .nearestEven neg man exp = n at hround hle
  generalize fmt.lowOf man exp = low at hround hhigh hlow ⊢
  have hpow (i : Int) : (0 : ℝ) < 2 ^ i := by positivity
  obtain hlt | rfl | hgt := lt_trichotomy low fmt.maxExp
  · refine iff_of_true ?_ (.inl hlt)
    rw [div_lt_iff₀ (hpow low)] at hhigh
    calc x < 2 ^ (fmt.manBits + 1) * 2 ^ low := hhigh
      _ = 2 ^ fmt.manBits * 2 ^ (low + 1) := by rw [zpow_add_one₀ two_ne_zero, pow_succ]; ring
      _ ≤ 2 ^ fmt.manBits * 2 ^ fmt.maxExp :=
          mul_le_mul_of_nonneg_left (zpow_le_zpow_right₀ one_le_two hlt) (by positivity)
      _ ≤ (2 ^ (fmt.manBits + 1) - 1 / 2) * 2 ^ fmt.maxExp := by
          refine mul_le_mul_of_nonneg_right ?_ (hpow _).le
          rw [pow_succ]
          linarith [one_le_pow₀ (one_le_two (α := ℝ)) (n := fmt.manBits)]
  · rw [← div_lt_iff₀ (hpow _), lt_self_iff_false, false_or, eq_self_iff_true, true_and]
    have heven : 2 ^ (fmt.manBits + 1) % 2 = 0 := Nat.mod_eq_zero_of_dvd (dvd_pow_self 2 (Nat.succ_ne_zero _))
    exact_mod_cast hround.lt_iff_of_even heven
  · refine iff_of_false (not_lt.2 ?_) (by omega)
    have hfull := hlow (hfmt.minExp_lt.trans hgt)
    rw [le_div_iff₀ (hpow low)] at hfull
    calc (2 ^ (fmt.manBits + 1) - 1 / 2) * 2 ^ fmt.maxExp ≤ 2 ^ (fmt.manBits + 1) * 2 ^ fmt.maxExp :=
          mul_le_mul_of_nonneg_right (by linarith) (hpow _).le
      _ = 2 ^ fmt.manBits * 2 ^ (fmt.maxExp + 1) := by rw [zpow_add_one₀ two_ne_zero, pow_succ]; ring
      _ ≤ 2 ^ fmt.manBits * 2 ^ low :=
          mul_le_mul_of_nonneg_left (zpow_le_zpow_right₀ one_le_two hgt) (by positivity)
      _ ≤ x := hfull

/-- Rounding gives the nearest number, or the infinity for a value too large. -/
theorem FpFormat.RoundsAs.round_nearest (hfmt : fmt.ofMachine) :
    if x < fmt.overflow then fmt.NearestReal (fmt.round .nearestEven neg man exp) ((if neg then -1 else 1) * x)
    else fmt.unpack (fmt.round .nearestEven neg man exp) = .inf neg := by
  obtain ⟨haligned, hle⟩ := h.aligned_keptOf (neg := neg) hman
  obtain ⟨-, hlow⟩ := h.scaled_bounds hman
  have hround := h.roundsTo_keptOf (neg := neg) hman
  rw [FpFormat.round_eq hman]
  simp only [h.lt_overflow_iff (neg := neg) hman hfmt]
  generalize fmt.keptOf .nearestEven neg man exp = n at haligned hle hround ⊢
  by_cases hfin : fmt.magnitudeOf n (fmt.lowOf man exp) < fmt.infPattern
  · rw [if_pos hfin, if_pos hfin]
    refine ⟨_, haligned.number_eq hle neg hfin, fun p q' hp hq => ?_⟩
    have hnearest := hround.le_inRange ((fmt.lowOf_le man exp).eq_or_lt'.imp Eq.le hlow) (hp.inRange hq |>.sign_mul neg)
    rw [hfmt.withSign_magnitudeOf_mod]
    push_cast
    cases neg
    · simpa using hnearest
    · have hdist (a b : ℝ) : |-a + b| = |a - b| := by rw [neg_add_eq_sub, abs_sub_comm]
      have hother : |(q' : ℝ) + x| = |-q' - x| := by rw [← neg_add', abs_neg]
      simpa [hdist, hother, neg_eq_iff_eq_neg] using hnearest
  · rw [if_neg hfin, if_neg hfin]
    exact fmt.unpack_infPattern neg

end

end Sys2Proof.Machine
end

section
/-! SUPPORT. The operations of FP as operations on the values of IEEE 754: a result is the exact value rounded to
nearest (45_vfpu.md R371, R373, R392, R393). -/

namespace Sys2Proof.Machine

open Sys2Proof

variable {fmt : FpFormat} {params : Params} {neg : Bool} {man : Nat} {exp : Int}

/-! ### Results -/

theorem FpFormat.one_lt_overflow (fmt : FpFormat) : 1 < fmt.overflow := by
  have hhalf : (1 : ℚ) < 2 - 1 / 2 ^ (fmt.manBits + 1) := by
    have hpow : (1 : ℚ) < 2 ^ (fmt.manBits + 1) := one_lt_pow₀ one_lt_two (Nat.succ_ne_zero _)
    rw [lt_sub_comm, div_lt_iff₀ (by positivity)]
    linarith
  exact one_lt_mul_of_lt_of_le hhalf (one_le_pow₀ one_le_two)

theorem FpFormat.two_pow_manBits_lt_infPattern (h : fmt.ofMachine) : 2 ^ fmt.manBits < fmt.infPattern := by
  obtain rfl | rfl := h <;> decide

/-- An infinity is kept as it is (log 20). -/
theorem FpFormat.kept_infPattern (h : fmt.ofMachine) (neg : Bool) :
    fmt.kept params (fmt.withSign neg fmt.infPattern) = fmt.withSign neg fmt.infPattern := by
  have hbig := fmt.two_pow_manBits_lt_infPattern h
  rw [fmt.kept_withSign neg fmt.infPattern_lt, if_neg fun ⟨_, hsmall⟩ => hbig.not_gt hsmall]

theorem FpFormat.number_zero (h : fmt.ofMachine) (neg : Bool) : fmt.number (fmt.withSign neg 0) = some 0 := by
  have hzero : fmt.magnitudeOf 0 fmt.minExp = 0 := by simp [FpFormat.magnitudeOf]
  have haligned : fmt.Aligned 0 fmt.minExp := ⟨le_rfl, .inl rfl⟩
  have hnumber := haligned.number_eq (Nat.zero_le _) neg
  rw [hzero] at hnumber
  simpa using hnumber ((Nat.zero_le _).trans_lt (fmt.two_pow_manBits_lt_infPattern h))

/-- A finite value that rounds as `man * 2 ^ exp` with a sign gives the pattern of the number rounded to nearest. -/
theorem FpFormat.rounds_fin (hfmt : fmt.ofMachine) (hp : params.rounding = .nearestEven) {x : ℚ}
    (h : fmt.RoundsAs |(x : ℝ)| man exp) (hx : x = (if neg then -1 else 1) * |x|) :
    fmt.rounds params (fmt.result params (.fin neg man exp)) (.num neg x) := by
  rw [fmt.result_eq, hp]
  refine ⟨_, rfl, fmt.isPattern_round .., fmt.signOf_round .., ?_⟩
  obtain rfl | hman := eq_or_ne man 0
  · have hx0 : x = 0 := by
      have hzero := h.wide.resolve_left (by simp)
      simpa [zpow_ne_zero] using hzero
    rw [hx0, fmt.round_zero, abs_zero, if_pos (zero_lt_one.trans fmt.one_lt_overflow)]
    refine ⟨0, fmt.number_zero hfmt neg, fun p q' _ _ => ⟨by simp, fun hne heq => absurd heq.symm ?_⟩⟩
    simpa using hne
  · have hnearest := h.round_nearest (neg := neg) hman hfmt
    have hreal : ((x : ℚ) : ℝ) = (if neg then -1 else 1) * |(x : ℝ)| := by
      rw [← Rat.cast_abs]
      conv_lhs => rw [hx]
      cases neg <;> simp
    rw [← hreal, FpFormat.nearestReal_iff, ← Rat.cast_abs] at hnearest
    simpa only [Rat.cast_lt] using hnearest

/-- The magnitude and the sign of a finite value. -/
theorem signed_abs (neg : Bool) (x : ℚ) (hx : 0 ≤ x) :
    (if neg then -1 else 1) * x = (if neg then -1 else 1) * |(if neg then -1 else 1) * x| := by
  cases neg <;> simp [abs_of_nonneg hx]

/-- Every result is the exact value rounded to nearest (45_vfpu.md R371). -/
theorem FpFormat.rounds_result (hfmt : fmt.ofMachine) (hp : params.rounding = .nearestEven) (v : FpValue) :
    fmt.rounds params (fmt.result params v) v.ext := by
  cases v with
  | nan => rfl
  | inf neg =>
    rw [fmt.result_eq]
    exact ⟨_, congrArg some (fmt.kept_infPattern hfmt neg), fmt.isPattern_withSign neg fmt.infPattern_lt,
      fmt.unpack_infPattern neg⟩
  | fin neg man exp =>
    have hnonneg : 0 ≤ (man : ℚ) * 2 ^ exp := by positivity
    have habs : |(((if neg then -1 else 1) * (man : ℚ) * 2 ^ exp : ℚ) : ℝ)| = man * 2 ^ exp := by
      cases neg <;> simp
    refine fmt.rounds_fin hfmt hp (habs ▸ fmt.roundsAs_self man exp) ?_
    rw [mul_assoc]
    exact signed_abs neg _ hnonneg

/-! ### Sums and products -/

theorem FpValue.ext_negate (v : FpValue) : v.negate.ext = v.ext.neg := by
  cases v with
  | nan | inf => rfl
  | fin neg man exp => cases neg <;> simp [FpValue.negate, FpValue.ext, Ext.neg]

/-- A finite value is a zero where its mantissa is. -/
theorem signed_eq_zero_iff (neg : Bool) (man : Nat) (exp : Int) :
    (if neg then -1 else 1) * (man : ℚ) * 2 ^ exp = 0 ↔ man = 0 := by
  cases neg <;> simp [zpow_ne_zero]

/-- The product is exact. -/
theorem FpValue.ext_mul (v w : FpValue) : (v.mul w).ext = v.ext.mul w.ext := by
  cases v with
  | nan => rfl
  | inf a =>
    cases w with
    | nan | inf => rfl
    | fin b mb eb =>
      rw [FpValue.mul, apply_ite FpValue.ext]
      simp only [FpValue.ext, Ext.mul, signed_eq_zero_iff]
  | fin a ma ea =>
    cases w with
    | nan => rfl
    | inf b =>
      rw [FpValue.mul, apply_ite FpValue.ext]
      simp only [FpValue.ext, Ext.mul, signed_eq_zero_iff]
    | fin b mb eb =>
      simp only [FpValue.mul, FpValue.ext, Ext.mul, Ext.num.injEq, true_and]
      rw [zpow_add₀ two_ne_zero, Nat.cast_mul]
      cases a <;> cases b <;> simp <;> ring

/-- The sign of a sum, where it is no zero. -/
theorem sign_of_signed (neg zero : Bool) (man : Nat) (exp : Int) :
    (if (if neg then -1 else 1) * (man : ℚ) * 2 ^ exp = 0 then zero
      else decide ((if neg then -1 else 1) * (man : ℚ) * 2 ^ exp < 0)) = if man = 0 then zero else neg := by
  obtain rfl | hman := eq_or_ne man 0
  · simp
  · have hpos : 0 < (man : ℚ) * 2 ^ exp := by positivity
    rw [if_neg hman]
    cases neg
    · simp only [Bool.false_eq_true, if_false, one_mul]
      rw [if_neg hpos.ne', decide_eq_false hpos.not_gt]
    · simp only [if_true, neg_mul, one_mul]
      rw [if_neg (neg_ne_zero.2 hpos.ne'), decide_eq_true (neg_neg_of_pos hpos)]

/-- A mantissa with a lower exponent, its sign apart. -/
theorem signed_lower (neg : Bool) (man : Nat) {exp low : Int} (h : low ≤ exp) :
    (if neg then -1 else 1) * (man : ℚ) * 2 ^ exp =
      (if neg then -1 else 1) * ((man * 2 ^ (exp - low).toNat : Nat) : ℚ) * 2 ^ low := by
  rw [signed_mul_zpow neg man h]
  cases neg <;> simp

/-- The sum of IEEE 754 where it is the signed number `neg, man, exp`. -/
theorem Ext.add_num {a b neg : Bool} {x y : ℚ} (hsum : x + y = (if neg then -1 else 1) * (man : ℚ) * 2 ^ exp)
    (hzero : man = 0 → neg = (a && b)) : (FpValue.fin neg man exp).ext = (Ext.num a x).add (.num b y) := by
  rw [Ext.add, hsum, sign_of_signed]
  split
  · rw [← hzero ‹_›]
    rfl
  · rfl

/-- The sum is exact, and a zero of unlike signs is +0 unless FP rounds toward negative. -/
theorem FpValue.ext_add {mode : Rounding} (hmode : mode ≠ .towardNegative) (v w : FpValue) :
    (v.add mode w).ext = v.ext.add w.ext := by
  cases v with
  | nan => rfl
  | inf a =>
    cases w with
    | nan | fin => rfl
    | inf b =>
      rw [FpValue.add, apply_ite FpValue.ext]
      rfl
  | fin a ma ea =>
    cases w with
    | nan | inf => rfl
    | fin b mb eb =>
      rw [FpValue.add, FpValue.ext.eq_def (.fin a ma ea), FpValue.ext.eq_def (.fin b mb eb)]
      dsimp only
      rw [signed_lower a ma (min_le_left ea eb), signed_lower b mb (min_le_right ea eb)]
      generalize ma * 2 ^ (ea - min ea eb).toNat = na
      generalize mb * 2 ^ (eb - min ea eb).toNat = nb
      generalize min ea eb = low
      by_cases hsign : a = b
      · rw [if_pos hsign, ← hsign]
        exact Ext.add_num (by push_cast; ring) fun _ => (Bool.and_self a).symm
      rw [if_neg hsign]
      obtain rfl : b = !a := Bool.eq_not.2 (Ne.symm hsign)
      obtain rfl | hne := eq_or_ne na nb
      · rw [if_pos rfl]
        exact Ext.add_num (by cases a <;> simp) fun _ => by simpa using hmode
      rw [if_neg hne]
      by_cases hlt : nb < na
      · rw [if_pos hlt]
        refine Ext.add_num ?_ fun h0 => absurd h0 (by omega)
        rw [Nat.cast_sub hlt.le]
        cases a <;> simp <;> ring
      · rw [if_neg hlt]
        refine Ext.add_num ?_ fun h0 => absurd h0 (by omega)
        rw [Nat.cast_sub (not_lt.1 hlt)]
        cases a <;> simp <;> ring

end Sys2Proof.Machine

open Sys2Proof Sys2Proof.Machine

/-- Settles O57: each operation rounds an exact value, which is what IEEE 754 says of the values of its operands. -/
theorem sumsAndProductsRoundToNearest : Obligations.SumsAndProductsRoundToNearest := by
  intro fmt target p a b c hfmt htarget hp ha hb hc x y
  have hx : x = (fmt.operand p a).ext := FpFormat.ext_eq_operand p ha
  have hy : y = (fmt.operand p b).ext := FpFormat.ext_eq_operand p hb
  have hadd (v w : FpValue) : (v.add p.rounding w).ext = v.ext.add w.ext := FpValue.ext_add (by rw [hp]; nofun) v w
  rw [hx, hy, FpFormat.ext_eq_operand p hc, ← FpValue.ext_negate, ← FpValue.ext_mul, ← hadd, ← hadd, ← hadd]
  refine ⟨fmt.rounds_result hfmt hp _, fmt.rounds_result hfmt hp _, fmt.rounds_result hfmt hp _, fun hfused => ?_,
    fun hfused => ?_, target.rounds_result htarget hp _⟩
  · rw [FpFormat.muladd, hfused]
    cases fmt.mul p a b <;> rfl
  · rw [FpFormat.muladd, hfused]
    exact fmt.rounds_result hfmt hp _
end

section
/-! SUPPORT. Quotients and square roots (45_vfpu.md R420 to R423): each is computed to some more bits than the format
keeps, with a last bit that says whether anything remains, and so rounds as the exact value does. -/

namespace Sys2Proof.Machine

open Sys2Proof

variable {fmt : FpFormat} {params : Params} {neg : Bool} {man : Nat} {exp : Int}

/-! ### Quotients -/

/-- Twice a quotient with the bit that says whether anything remains lies as twice the exact quotient. -/
theorem sticky_div (n : Nat) {d : Nat} (hd : d ≠ 0) :
    Sticky (2 * (n / d) + if n % d = 0 then 0 else 1) (2 * n / d) := by
  have hpos : (0 : ℝ) < d := Nat.cast_pos.2 (Nat.pos_of_ne_zero hd)
  have hdiv : (n : ℝ) = (n / d : Nat) * d + (n % d : Nat) := by exact_mod_cast (Nat.div_add_mod' n d).symm
  have hmod : ((n % d : Nat) : ℝ) < d := Nat.cast_lt.2 (Nat.mod_lt _ (Nat.pos_of_ne_zero hd))
  split
  · left
    rw [div_eq_iff hpos.ne', hdiv, ‹n % d = 0›]
    push_cast
    ring
  · right
    have hrest : (0 : ℝ) < (n % d : Nat) := Nat.cast_pos.2 (Nat.pos_of_ne_zero ‹_›)
    refine ⟨by omega, ?_⟩
    rw [abs_sub_lt_iff, sub_lt_iff_lt_add, sub_lt_comm, div_lt_iff₀ hpos, lt_div_iff₀ hpos, hdiv]
    push_cast
    constructor <;> nlinarith

/-- The quotient has two bits more than the format keeps. -/
theorem two_pow_le_div {ma mb digits : Nat} (ha : ma ≠ 0) (hb : mb ≠ 0) :
    2 ^ digits ≤ ma * 2 ^ (digits + 1 + Nat.log2 mb - Nat.log2 ma) / mb := by
  rw [Nat.le_div_iff_mul_le (Nat.pos_of_ne_zero hb)]
  calc 2 ^ digits * mb ≤ 2 ^ digits * 2 ^ (Nat.log2 mb + 1) := Nat.mul_le_mul_left _ Nat.lt_log2_self.le
    _ = 2 ^ (digits + 1 + Nat.log2 mb) := by rw [← pow_add]; congr 1; omega
    _ ≤ 2 ^ (Nat.log2 ma + (digits + 1 + Nat.log2 mb - Nat.log2 ma)) := Nat.pow_le_pow_right two_pos (by omega)
    _ = 2 ^ Nat.log2 ma * 2 ^ (digits + 1 + Nat.log2 mb - Nat.log2 ma) := pow_add ..
    _ ≤ ma * 2 ^ (digits + 1 + Nat.log2 mb - Nat.log2 ma) := Nat.mul_le_mul_right _ (Nat.log2_self_le ha)

/-- The computed quotient rounds as the exact one. -/
theorem FpFormat.roundsAs_div (fmt : FpFormat) (ma mb : Nat) (ea eb : Int) (hb : mb ≠ 0) :
    let k := fmt.manBits + 3 + Nat.log2 mb - Nat.log2 ma
    let n := ma * 2 ^ k
    fmt.RoundsAs ((ma : ℝ) * 2 ^ ea / (mb * 2 ^ eb)) (2 * (n / mb) + if n % mb = 0 then 0 else 1)
      (ea - eb - k - 1) := by
  intro k n
  have hscaled : (ma : ℝ) * 2 ^ ea / (mb * 2 ^ eb) / 2 ^ (ea - eb - k - 1) = 2 * n / mb := by
    have hpow : (2 : ℝ) ^ ea = 2 ^ (ea - eb - k - 1) * 2 ^ eb * 2 ^ k * 2 := by
      rw [← zpow_natCast, ← zpow_add₀ two_ne_zero, ← zpow_add₀ two_ne_zero, ← zpow_add_one₀ two_ne_zero]
      congr 1
      ring
    have hb' : (mb : ℝ) ≠ 0 := Nat.cast_ne_zero.2 hb
    rw [hpow]
    push_cast [n]
    field_simp
  refine ⟨hscaled ▸ sticky_div n hb, ?_⟩
  obtain rfl | ha := eq_or_ne ma 0
  · right
    simp [n]
  · left
    have hquotient : 2 ^ (fmt.manBits + 2) ≤ n / mb := two_pow_le_div ha hb
    omega

/-- The quotient of two numbers, neither of them an infinity, rounded to nearest. -/
theorem FpFormat.rounds_div_fin (hfmt : fmt.ofMachine) (hp : params.rounding = .nearestEven) (a b : Bool) (ma mb : Nat)
    (ea eb : Int) :
    fmt.rounds params (fmt.result params ((FpValue.fin a ma ea).div (fmt.manBits + 3) (.fin b mb eb)))
      ((FpValue.fin a ma ea).ext.div (FpValue.fin b mb eb).ext) := by
  have hresult := fmt.rounds_result (params := params) hfmt hp
  rw [FpValue.div, FpValue.ext.eq_def (.fin a ma ea), FpValue.ext.eq_def (.fin b mb eb)]
  simp only [Ext.div, signed_eq_zero_iff]
  obtain rfl | hb := eq_or_ne mb 0
  · rw [if_pos rfl, if_pos rfl]
    split
    · exact hresult .nan
    · exact hresult (.inf (a != b))
  · rw [if_neg hb, if_neg hb]
    have hnonneg : 0 ≤ (ma : ℚ) * 2 ^ ea / (mb * 2 ^ eb) := by positivity
    have hsigned : (if a then -1 else 1) * (ma : ℚ) * 2 ^ ea / ((if b then -1 else 1) * mb * 2 ^ eb) =
        (if (a != b) then -1 else 1) * (ma * 2 ^ ea / (mb * 2 ^ eb)) := by
      cases a <;> cases b <;> simp [neg_div, div_neg]
    have habs : |((((if (a != b) then -1 else 1) * (ma * 2 ^ ea / (mb * 2 ^ eb)) : ℚ)) : ℝ)| =
        ma * 2 ^ ea / (mb * 2 ^ eb) := by
      cases a != b <;> simp [abs_div, abs_mul]
    rw [hsigned]
    exact fmt.rounds_fin hfmt hp (habs ▸ fmt.roundsAs_div ma mb ea eb hb) (signed_abs _ _ hnonneg)

/-- The quotient of two values is the exact one rounded to nearest (45_vfpu.md R420, R422). -/
theorem FpFormat.rounds_div (hfmt : fmt.ofMachine) (hp : params.rounding = .nearestEven) (v w : FpValue) :
    fmt.rounds params (fmt.result params (v.div (fmt.manBits + 3) w)) (v.ext.div w.ext) := by
  have hresult := fmt.rounds_result (params := params) hfmt hp
  cases v with
  | nan => exact hresult .nan
  | inf a =>
    cases w with
    | nan | inf => exact hresult .nan
    | fin b mb eb => exact hresult (.inf (a != b))
  | fin a ma ea =>
    cases w with
    | nan => exact hresult .nan
    | inf b =>
      have hzero : (FpValue.fin (a != b) 0 0).ext = .num (a != b) 0 := by simp [FpValue.ext]
      have hfin := hresult (.fin (a != b) 0 0)
      rwa [hzero] at hfin
    | fin b mb eb => exact fmt.rounds_div_fin hfmt hp a b ma mb ea eb

/-! ### Square roots -/

/-- The bits of the root from `i - 1` down, for a root of whose higher bits `r` is. -/
theorem isqrtFrom_bounds (n i r : Nat) (hle : r * r ≤ n) (hlt : n < (r + 2 ^ i) * (r + 2 ^ i)) :
    isqrtFrom n i r * isqrtFrom n i r ≤ n ∧ n < (isqrtFrom n i r + 1) * (isqrtFrom n i r + 1) := by
  induction i generalizing r with
  | zero => exact ⟨hle, hlt⟩
  | succ i ih =>
    rw [isqrtFrom]
    rw [pow_succ] at hlt
    split
    · exact ih _ ‹_› (by rwa [add_assoc, ← mul_two])
    · exact ih _ hle (not_le.1 ‹_›)

/-- The integer square root of the model is the library's. -/
theorem isqrt_eq_sqrt (n : Nat) : isqrt n = Nat.sqrt n := by
  have hlt : n < (0 + 2 ^ (Nat.log2 n / 2 + 1)) * (0 + 2 ^ (Nat.log2 n / 2 + 1)) := by
    rw [Nat.zero_add, ← pow_add]
    exact Nat.lt_log2_self.trans_le (Nat.pow_le_pow_right two_pos (by omega))
  exact Nat.eq_sqrt.2 (isqrtFrom_bounds n _ 0 (Nat.zero_le _) hlt)

/-- Twice an integer root with the bit that says whether anything remains lies as twice the exact root. -/
theorem sticky_sqrt (n : Nat) :
    Sticky (2 * isqrt n + if isqrt n * isqrt n = n then 0 else 1) (2 * √n) := by
  rw [isqrt_eq_sqrt]
  have hle : ((Nat.sqrt n : Nat) : ℝ) ≤ √n := Real.nat_sqrt_le_real_sqrt
  have hlt : √(n : ℝ) < Nat.sqrt n + 1 := Real.real_sqrt_lt_nat_sqrt_succ
  split
  · left
    have hroot : √(n : ℝ) = Nat.sqrt n := by
      rw [Real.sqrt_eq_iff_mul_self_eq (by positivity) (by positivity)]
      exact_mod_cast Eq.symm ‹_›
    rw [hroot]
    push_cast
    ring
  · right
    have hne : ((Nat.sqrt n : Nat) : ℝ) ≠ √n := fun heq => by
      have hsq := Real.mul_self_sqrt (Nat.cast_nonneg (α := ℝ) n)
      rw [← heq] at hsq
      exact absurd (by exact_mod_cast hsq) ‹¬_›
    have hlt' := lt_of_le_of_ne hle hne
    refine ⟨by omega, ?_⟩
    rw [abs_sub_lt_iff]
    push_cast
    constructor <;> linarith

/-- The computed root rounds as the exact one. -/
theorem FpFormat.roundsAs_sqrt (fmt : FpFormat) (hman : man ≠ 0) (exp : Int) :
    let k := 2 * (fmt.manBits + 3) + (exp % 2).toNat
    let n := man * 2 ^ k
    fmt.RoundsAs √((man : ℝ) * 2 ^ exp) (2 * isqrt n + if isqrt n * isqrt n = n then 0 else 1) ((exp - k) / 2 - 1) := by
  intro k n
  have heven : exp = 2 * ((exp - k) / 2) + k := by omega
  have hscaled : √((man : ℝ) * 2 ^ exp) / 2 ^ ((exp - k) / 2 - 1) = 2 * √n := by
    have hn : (man : ℝ) * 2 ^ exp = n * (2 ^ ((exp - k) / 2) * 2 ^ ((exp - k) / 2)) := by
      rw [← zpow_add₀ two_ne_zero, ← two_mul]
      conv_lhs => rw [heven, zpow_add₀ two_ne_zero, zpow_natCast]
      push_cast [n]
      ring
    rw [hn, Real.sqrt_mul (by positivity), Real.sqrt_mul_self (by positivity), zpow_sub_one₀ two_ne_zero]
    field_simp
  refine ⟨hscaled ▸ sticky_sqrt n, .inl ?_⟩
  have hroot : 2 ^ (fmt.manBits + 3) ≤ isqrt n := by
    rw [isqrt_eq_sqrt, Nat.le_sqrt, ← pow_add]
    calc 2 ^ (fmt.manBits + 3 + (fmt.manBits + 3)) ≤ 2 ^ k := Nat.pow_le_pow_right two_pos (by omega)
      _ ≤ n := Nat.le_mul_of_pos_left _ (Nat.pos_of_ne_zero hman)
  rw [pow_succ] at hroot
  omega

/-! ### What keeps a root from the ends of the range -/

/-- A pattern above the subnormal numbers is kept as it is (log 20). -/
theorem FpFormat.kept_round (hfmt : fmt.ofMachine) (mode : Rounding) (neg : Bool)
    (h : man = 0 ∨ fmt.minExp < fmt.lowOf man exp) :
    fmt.kept params (fmt.round mode neg man exp) = fmt.round mode neg man exp := by
  have hkeep {magnitude : Nat} (hlt : magnitude < 2 ^ (fmt.expBits + fmt.manBits))
      (hbig : magnitude = 0 ∨ 2 ^ fmt.manBits ≤ magnitude) :
      fmt.kept params (fmt.withSign neg magnitude) = fmt.withSign neg magnitude := by
    rw [fmt.kept_withSign neg hlt]
    split
    · rw [hbig.resolve_right (by omega)]
    · rfl
  have hinf := fmt.infPattern_lt
  have hbig := fmt.two_pow_manBits_lt_infPattern hfmt
  by_cases hman : man = 0
  · rw [hman, fmt.round_zero]
    exact hkeep (by positivity) (.inl rfl)
  · have hlow : 2 ^ fmt.manBits ≤ fmt.magnitudeOf (fmt.keptOf mode neg man exp) (fmt.lowOf man exp) :=
      le_add_right (Nat.le_mul_of_pos_left _ (by have := h.resolve_left hman; omega))
    rw [FpFormat.round_eq hman]
    split_ifs with hfin hover
    · exact hkeep (hfin.trans hinf) (.inr hlow)
    · exact hkeep hinf (.inr hbig.le)
    · exact hkeep ((Nat.sub_le ..).trans_lt hinf) (.inr (Nat.le_sub_one_of_lt hbig))

/-- The number of a pattern is below the overflow. -/
theorem FpFormat.isPattern.lt_overflow (hfmt : fmt.ofMachine) {p : Nat} (hp : fmt.isPattern p)
    (hv : fmt.unpack p = .fin neg man exp) : (man : ℝ) * 2 ^ exp < fmt.overflow := by
  have hzero : ((0 : ℚ) : ℝ) < fmt.overflow := Rat.cast_lt.2 (zero_lt_one.trans fmt.one_lt_overflow)
  obtain ⟨haligned, hm, hfin, hpattern⟩ := hp.aligned hv
  by_contra hge
  obtain rfl | hman := eq_or_ne man 0
  · exact hge (by simpa only [Nat.cast_zero, zero_mul, Rat.cast_zero] using hzero)
  · have hround := (fmt.roundsAs_self man exp).round_nearest (neg := neg) hman hfmt
    rw [if_neg hge, haligned.round_eq hm hfin rfl, ← hpattern, hv] at hround
    cases hround

/-- The least number above 0. -/
theorem FpFormat.number_one (hfmt : fmt.ofMachine) : fmt.number (fmt.withSign false 1) = some (2 ^ fmt.minExp) := by
  have haligned : fmt.Aligned 1 fmt.minExp := ⟨le_rfl, .inl rfl⟩
  have hone : fmt.magnitudeOf 1 fmt.minExp = 1 := by simp [FpFormat.magnitudeOf]
  have hpow : 1 ≤ 2 ^ fmt.manBits := Nat.one_le_two_pow
  have hnumber := haligned.number_eq Nat.one_le_two_pow false
  rw [hone] at hnumber
  simpa using hnumber (hpow.trans_lt (fmt.two_pow_manBits_lt_infPattern hfmt))

theorem FpFormat.ofMachine.minExp_add_le (h : fmt.ofMachine) : fmt.minExp + 2 * (fmt.manBits + 1) ≤ 0 := by
  obtain rfl | rfl := h <;> decide

/-- The root of a number is far above the subnormal numbers. -/
theorem FpFormat.two_pow_le_sqrt (hfmt : fmt.ofMachine) {x : ℝ} (hx : 2 ^ fmt.minExp ≤ x) :
    2 ^ (fmt.manBits + 1) * 2 ^ fmt.minExp ≤ √x := by
  have hle := hfmt.minExp_add_le
  refine Real.le_sqrt_of_sq_le (le_trans ?_ hx)
  rw [mul_pow, ← pow_mul, ← zpow_natCast, ← zpow_natCast, ← zpow_mul, ← zpow_add₀ two_ne_zero]
  refine zpow_le_zpow_right₀ one_le_two ?_
  push_cast
  linarith

/-! ### The root of a value -/

/-- The root of a positive number: a positive number that no other is closer to. -/
theorem FpFormat.isRoot_fin (hfmt : fmt.ofMachine) (hp : params.rounding = .nearestEven) {p : Nat}
    (hpat : fmt.isPattern p) (hv : fmt.unpack p = .fin false man exp) (hman : man ≠ 0) :
    fmt.isRoot (fmt.result params ((FpValue.fin false man exp).sqrt (fmt.manBits + 3)))
      (FpValue.fin false man exp).ext := by
  have hpos : 0 < (man : ℚ) * 2 ^ exp := by positivity
  have hext : (FpValue.fin false man exp).ext = .num false (man * 2 ^ exp) := by simp [FpValue.ext]
  have hcast : (((man : ℚ) * 2 ^ exp : ℚ) : ℝ) = man * 2 ^ exp := by push_cast; rfl
  rw [hext, FpFormat.isRoot, if_neg hpos.not_gt, FpValue.sqrt, if_neg hman, if_neg nofun, fmt.result_eq, hp, hcast]
  have hroot := fmt.roundsAs_sqrt hman exp
  dsimp only at hroot ⊢
  generalize 2 * isqrt _ + _ = root at hroot ⊢
  generalize (exp - _) / 2 - 1 = e at hroot ⊢
  have hunit : (2 : ℝ) ^ fmt.minExp ≤ man * 2 ^ exp := by
    have hone : (1 : ℝ) ≤ man := Nat.one_le_cast.2 (Nat.one_le_iff_ne_zero.2 hman)
    have hle : (2 : ℝ) ^ fmt.minExp ≤ 2 ^ exp := zpow_le_zpow_right₀ one_le_two (hpat.aligned hv).1.minExp_le
    exact hle.trans (le_mul_of_one_le_left (by positivity) hone)
  have hbig := fmt.two_pow_le_sqrt hfmt hunit
  have hfinite : √((man : ℝ) * 2 ^ exp) < fmt.overflow := by
    have hone : (1 : ℝ) < fmt.overflow := by exact_mod_cast fmt.one_lt_overflow
    rw [Real.sqrt_lt' (zero_lt_one.trans hone), sq]
    exact (hpat.lt_overflow hfmt hv).trans (lt_mul_of_one_lt_left (zero_lt_one.trans hone) hone)
  generalize √((man : ℝ) * 2 ^ exp) = x at hroot hbig hfinite ⊢
  have hscale : (0 : ℝ) < 2 ^ fmt.minExp := by positivity
  have hx : 0 < x := lt_of_lt_of_le (by positivity) hbig
  have hroot0 : root ≠ 0 := by
    rintro rfl
    have hzero := hroot.wide.resolve_left (by simp)
    simp [hx.ne', zpow_ne_zero] at hzero
  have hlow : fmt.minExp < fmt.lowOf root e := by
    refine lt_of_le_of_ne (fmt.lowOf_le root e) fun heq => ?_
    have hhigh := (hroot.scaled_bounds hroot0).1
    rw [← heq, div_lt_iff₀ hscale] at hhigh
    exact hhigh.not_ge hbig
  have hnearest := hroot.round_nearest (neg := false) hroot0 hfmt
  rw [if_pos hfinite, if_neg nofun, one_mul] at hnearest
  obtain ⟨q, hq, hmin⟩ := hnearest
  rw [FpFormat.pack, Option.map_some, fmt.kept_round hfmt _ _ (.inr hlow)]
  refine ⟨_, q, rfl, fmt.isPattern_round .., hq, fun h0 => absurd h0 hpos.ne', fun _ => ⟨?_, fun p' q' hp' hq' =>
    (hmin p' q' hp' hq').1⟩⟩
  have hunit_le : (2 : ℝ) ^ fmt.minExp ≤ x :=
    (le_mul_of_one_le_left hscale.le (one_le_pow₀ one_le_two)).trans hbig
  have hwidth : fmt.expBits + fmt.manBits ≠ 0 := (Nat.add_pos_right _ hfmt.manBits_pos).ne'
  obtain ⟨hcloser, -⟩ := hmin _ _ (fmt.isPattern_withSign false (Nat.one_lt_two_pow hwidth)) (fmt.number_one hfmt)
  push_cast at hcloser
  rw [abs_sub_comm _ x, abs_sub_comm _ x, abs_of_nonneg (sub_nonneg.2 hunit_le)] at hcloser
  have hpositive : (0 : ℝ) < q := by linarith [le_abs_self (x - q)]
  exact_mod_cast hpositive

/-- The root of a value (45_vfpu.md R421, R423). -/
theorem FpFormat.isRoot_sqrt (hfmt : fmt.ofMachine) (hp : params.rounding = .nearestEven) {p : Nat}
    (hpat : fmt.isPattern p) :
    fmt.isRoot (fmt.result params ((fmt.unpack p).sqrt (fmt.manBits + 3))) (fmt.unpack p).ext := by
  cases hv : fmt.unpack p with
  | nan => rfl
  | inf neg =>
    cases neg with
    | true => rfl
    | false =>
      rw [fmt.result_eq]
      exact ⟨_, congrArg some (fmt.kept_infPattern hfmt false), fmt.isPattern_withSign false fmt.infPattern_lt,
        fmt.unpack_infPattern false⟩
  | fin neg man exp =>
    obtain rfl | hman := eq_or_ne man 0
    · have hzero : (FpValue.fin neg 0 exp).ext = .num neg 0 := by simp [FpValue.ext]
      rw [hzero, FpFormat.isRoot, if_neg (lt_irrefl _), FpValue.sqrt, if_pos rfl, fmt.result_eq, FpFormat.pack,
        fmt.round_zero, ← fmt.round_zero params.rounding neg 0, Option.map_some, fmt.kept_round hfmt _ _ (.inl rfl)]
      rw [fmt.round_zero]
      exact ⟨_, 0, rfl, fmt.isPattern_withSign neg (by positivity), fmt.number_zero hfmt neg,
        fun _ => ⟨rfl, fmt.signOf_withSign neg (by positivity)⟩, fun h => absurd h (lt_irrefl _)⟩
    · cases neg with
      | true =>
        have hpos : 0 < (man : ℚ) * 2 ^ exp := by positivity
        rw [FpValue.sqrt, if_neg hman, if_pos rfl, FpValue.ext, FpFormat.isRoot, if_pos (by simpa using hpos)]
        rfl
      | false => exact fmt.isRoot_fin hfmt hp hpat hv hman

end Sys2Proof.Machine

open Sys2Proof Sys2Proof.Machine

/-- Settles O58: quotients and roots are computed with enough bits to round as the exact values do. -/
theorem quotientsAndRootsRoundToNearest : Obligations.QuotientsAndRootsRoundToNearest := by
  intro fmt p a b hfmt hp ha hb
  rw [FpFormat.ext_eq_operand p ha, FpFormat.ext_eq_operand p hb]
  refine ⟨fmt.rounds_div hfmt hp _ _, ?_⟩
  rw [FpFormat.sqrt, FpFormat.operand, FpFormat.flushed_eq_kept p ha]
  exact fmt.isRoot_sqrt hfmt hp ha.kept
end

section
/-! SUPPORT. The instructions that write float, double and vector registers and the accumulator (45_vfpu.md R372 to
R393, R419 to R426): the write of a result, and the inner product in the order of FP. -/

namespace Sys2Proof.Machine

open Sys2Proof

variable {i : Instr} {s : State}

/-! ### The pattern of a result -/

theorem or_and_mask {n : Nat} (a mask : BitVec n) : (a ||| mask) &&& mask = mask := by
  ext k hk
  simp only [BitVec.getElem_and, BitVec.getElem_or]
  cases mask[k] <;> simp

/-- What is written for a result is the result, or the NaN that FP answers (45_vfpu.md R371; log 5, log 20). -/
theorem isResult32_getD (mode : NanResult) (counter : Nat) (res : Option (BitVec 32)) :
    IsResult32 mode res (res.getD (nan32 mode counter)) := by
  cases res with
  | some => rfl
  | none =>
    cases mode with
    | drawn => exact or_and_mask ..
    | canonical => rfl

theorem isResult64_getD (mode : NanResult) (counter : Nat) (res : Option (BitVec 64)) :
    IsResult64 mode res (res.getD (nan64 mode counter)) := by
  cases res with
  | some => rfl
  | none =>
    cases mode with
    | drawn => exact or_and_mask ..
    | canonical => rfl

/-- The lanes that are written, and those that are kept (45_vfpu.md R372). -/
theorem lanesWritten_mergeLanes (mode : NanResult) (counter : Nat) (lanes : Lanes) (old : Vec4)
    (res : Nat → Option (BitVec 32)) : LanesWritten mode lanes old (mergeLanes mode counter lanes old res) res := by
  intro k hk
  rw [mergeLanes, Vec4.lane_build _ hk]
  simp only [Lanes.has, decide_eq_true_eq]
  split
  · exact isResult32_getD ..
  · rfl

/-! ### Writes -/

/-- A write of a float register changes float, double and vector registers alone. -/
theorem State.onlyFpr_setF (s : State) (n : Nat) (dst : FReg) (value : BitVec 32) :
    OnlyFpr s ((s.tick n).setF dst value).advance := by
  rw [State.advance_eq]
  rfl

theorem State.onlyFpr_setD (s : State) (n : Nat) (dst : DReg) (value : BitVec 64) :
    OnlyFpr s ((s.tick n).setD dst value).advance := by
  rw [State.advance_eq]
  rfl

theorem State.onlyFpr_setLanes (s : State) (n : Nat) (dst : VReg) (lanes : Lanes) (value : Vec4) :
    OnlyFpr s ((s.tick n).setLanes dst lanes value).advance := by
  rw [State.advance_eq]
  rfl

/-- The instruction writes a float result. -/
theorem YieldsFloat.of_writeFloat {dst : FReg} {res : Option (BitVec 32)}
    (h : exec i s = .next (s.writeFloat dst res).advance) : YieldsFloat i s dst res := by
  have hdst : (s.writeFloat dst res).advance.getF dst = res.getD (nan32 s.params.nanResult s.draws) :=
    State.getF_setF_self ..
  exact ⟨_, h, s.onlyFpr_setF 1 dst _, (s.tick 1).onlyFloat_setF dst _, hdst ▸ isResult32_getD ..⟩

/-- The instruction writes a double result. -/
theorem YieldsDouble.of_writeDouble {dst : DReg} {res : Option (BitVec 64)}
    (h : exec i s = .next (s.writeDouble dst res).advance) : YieldsDouble i s dst res := by
  have hdst : (s.writeDouble dst res).advance.getD dst = res.getD (nan64 s.params.nanResult s.draws) :=
    State.getD_setD_self ..
  exact ⟨_, h, s.onlyFpr_setD 1 dst _, (s.tick 1).onlyDouble_setD dst _, hdst ▸ isResult64_getD ..⟩

/-- The instruction writes lanes of a vector register. -/
theorem YieldsVector.of_writeLanes {dst : VReg} {lanes : Lanes} {res : Nat → Option (BitVec 32)}
    (h : exec i s = .next (s.writeLanes dst lanes res).advance) : YieldsVector i s dst lanes res := by
  have hdst : (s.writeLanes dst lanes res).advance.getV dst =
      mergeLanes s.params.nanResult s.draws lanes (s.getV dst) res := State.getV_setLanes_self _ dst lanes _
  exact ⟨_, h, s.onlyFpr_setLanes 4 dst lanes _, (s.tick 4).onlyVector_setLanes dst lanes _,
    hdst ▸ lanesWritten_mergeLanes _ _ lanes _ res⟩

/-- The accumulator after a write of its lanes. -/
theorem State.writeAcc_advance (s : State) (lanes : Lanes) (res : Nat → Option (BitVec 32)) :
    (s.writeAcc lanes res).advance = { s with
      pc := s.seqPc, acc := mergeLanes s.params.nanResult s.draws lanes s.acc res, draws := s.draws + 4 } := by
  rw [State.advance_eq]
  rfl

/-! ### Immediates -/

/-- An immediate moved up by zeros is the pattern with the immediate as its high bits (30_encoding.md R106). -/
theorem setWidth_shiftLeft_eq_append {n k : Nat} (value : BitVec n) :
    value.setWidth (n + k) <<< k = value ++ 0#k := by
  apply BitVec.eq_of_toNat_eq
  rw [setWidth_shiftLeft_toNat rfl, BitVec.toNat_append, BitVec.toNat_ofNat, Nat.zero_mod, Nat.or_zero,
    Nat.shiftLeft_eq]

/-- A moved pattern is a result that no NaN replaces. -/
theorem lanesWritten_build (mode : NanResult) (old : Vec4) (value : BitVec 32) :
    LanesWritten mode .xyzw old (Vec4.build fun _ => value) fun _ => some value := by
  intro k hk
  have hle : k ≤ Lanes.toField .xyzw := Nat.le_of_lt_succ hk
  rw [Vec4.lane_build _ hk, if_pos hle]
  rfl

/-! ### The inner product -/

/-- A result that is no NaN is a pattern. -/
theorem FpFormat.isPattern_result {fmt : FpFormat} {p : Params} {v : FpValue} {r : Nat} (h : fmt.result p v = some r) :
    fmt.isPattern r := by
  rw [fmt.result_eq, Option.map_eq_some_iff] at h
  obtain ⟨q, hq, rfl⟩ := h
  exact (FpFormat.isPattern_pack hq).kept

/-- A pattern fits a register. -/
theorem toNat_ofNat_binary32 {r : Nat} (h : binary32.isPattern r) : (BitVec.ofNat 32 r).toNat = r :=
  (BitVec.toNat_ofNat ..).trans (Nat.mod_eq_of_lt h)

theorem toNat_ofNat_binary64 {r : Nat} (h : binary64.isPattern r) : (BitVec.ofNat 64 r).toNat = r :=
  (BitVec.toNat_ofNat ..).trans (Nat.mod_eq_of_lt h)

/-- A register holds a pattern. -/
theorem isPattern_toNat_binary32 (a : BitVec 32) : binary32.isPattern a.toNat := a.isLt

theorem isPattern_toNat_binary64 (a : BitVec 64) : binary64.isPattern a.toNat := a.isLt

/-- Two results summed as register patterns. -/
theorem on32_addPartial (p : Params) {a b : Option Nat} (ha : ∀ x ∈ a, binary32.isPattern x)
    (hb : ∀ x ∈ b, binary32.isPattern x) : on32 (binary32.addPartial p a b) = sumOf p (on32 a) (on32 b) := by
  cases a with
  | none => rfl
  | some x =>
    cases b with
    | none => rfl
    | some y =>
      change on32 (binary32.add p x y) = fpAdd32 p (BitVec.ofNat 32 x) (BitVec.ofNat 32 y)
      rw [fpAdd32, toNat_ofNat_binary32 (ha x rfl), toNat_ofNat_binary32 (hb y rfl)]

/-- A sum of two results is a pattern. -/
theorem isPattern_addPartial (p : Params) (a b : Option Nat) :
    ∀ x ∈ binary32.addPartial p a b, binary32.isPattern x := by
  intro x hx
  obtain ⟨y, -, hx⟩ := Option.bind_eq_some_iff.1 hx
  obtain ⟨z, -, hx⟩ := Option.bind_eq_some_iff.1 hx
  exact FpFormat.isPattern_result hx

/-- Results summed from the first one on, as register patterns. -/
theorem on32_sumFrom (p : Params) {sum : Option Nat} {rest : List (Option Nat)} (hsum : ∀ x ∈ sum, binary32.isPattern x)
    (hrest : ∀ a ∈ rest, ∀ x ∈ a, binary32.isPattern x) :
    on32 (binary32.sumFrom p sum rest) = rest.foldl (fun acc a => sumOf p acc (on32 a)) (on32 sum) := by
  induction rest generalizing sum with
  | nil => rfl
  | cons a rest ih =>
    rw [FpFormat.sumFrom, List.foldl_cons, ih (isPattern_addPartial p sum a) fun b hb => hrest b (.tail a hb),
      on32_addPartial p hsum (hrest a (.head rest))]

/-- The product of lane k of two vectors. -/
def product (p : Params) (a b : Vec4) (k : Nat) : Option Nat := binary32.mul p (a.lane k).toNat (b.lane k).toNat

theorem isPattern_product (p : Params) (a b : Vec4) (k : Nat) : ∀ x ∈ product p a b k, binary32.isPattern x :=
  fun _ hx => FpFormat.isPattern_result hx

/-- Products summed in the order of a list of lanes. -/
theorem on32_sumFrom_products (p : Params) (a b : Vec4) (k : Nat) (ks : List Nat) :
    on32 (binary32.sumFrom p (product p a b k) (ks.map (product p a b))) =
      ks.foldl (fun acc k => sumOf p acc (laneProduct p a b k)) (laneProduct p a b k) := by
  rw [on32_sumFrom p (isPattern_product p a b k), List.foldl_map]
  · rfl
  · intro c hc
    obtain ⟨j, -, rfl⟩ := List.mem_map.1 hc
    exact isPattern_product p a b j

/-- The four products summed in pairs. -/
theorem on32_pairs (p : Params) (a b : Vec4) :
    on32 (binary32.addPartial p (binary32.addPartial p (product p a b 0) (product p a b 1))
        (binary32.addPartial p (product p a b 2) (product p a b 3))) =
      sumOf p (sumOf p (laneProduct p a b 0) (laneProduct p a b 1))
        (sumOf p (laneProduct p a b 2) (laneProduct p a b 3)) := by
  have hprod := isPattern_product p a b
  rw [on32_addPartial p (isPattern_addPartial p _ _) (isPattern_addPartial p _ _),
    on32_addPartial p (hprod 0) (hprod 1), on32_addPartial p (hprod 2) (hprod 3)]
  rfl

/-- FP.dot is the inner product in the order of FP, whatever lanes are selected (45_vfpu.md R387). -/
theorem on32_dot (p : Params) (lanes : Lanes) (a b : Vec4) :
    on32 (binary32.dot p (lanePairs lanes a b)) = dotOf p a b lanes.toField := by
  have hsum := on32_sumFrom_products p a b
  have hdot : binary32.dot p (lanePairs lanes a b) =
      binary32.sumProducts p ((List.range (lanes.toField + 1)).map (product p a b)) := by
    rw [FpFormat.dot, lanePairs, List.map_map]
    rfl
  rw [hdot]
  unfold FpFormat.sumProducts dotOf
  cases p.dotOrder with
  | ascending =>
    cases lanes
    exacts [hsum 0 [], hsum 0 [1], hsum 0 [1, 2], hsum 0 [1, 2, 3]]
  | descending =>
    cases lanes
    exacts [hsum 0 [], hsum 1 [0], hsum 2 [1, 0], hsum 3 [2, 1, 0]]
  | pairwise =>
    cases lanes
    exacts [hsum 0 [], hsum 0 [1], hsum 0 [1, 2], on32_pairs p a b]

/-! ### The operand of a root -/

/-- SQRT_OPERAND names the source field (45_vfpu.md R419). -/
theorem sqrtSource_eq {n : Nat} (mode : SqrtOperand) (a b : Fin n) :
    sqrtSource mode a b = if mode = .source1 then a else b := by
  cases mode <;> rfl

end Sys2Proof.Machine

open Sys2Proof Sys2Proof.Machine

/-- Settles O43: each writes the selected lanes of its result. -/
theorem vectorArithmetic : Obligations.VectorArithmetic := by
  intro s dst left right float lanes a b d f p
  exact ⟨.of_writeLanes rfl, .of_writeLanes rfl, .of_writeLanes rfl, .of_writeLanes rfl, .of_writeLanes rfl,
    .of_writeLanes rfl, .of_writeLanes rfl, .of_writeLanes rfl, .of_writeLanes rfl⟩

/-- Settles O44: each writes the selected lanes of its result to the accumulator. -/
theorem accumulatorArithmetic : Obligations.AccumulatorArithmetic := by
  intro s vec float lanes a f yields
  have hyields (i : Instr) (res : Nat → Option (BitVec 32)) (h : exec i s = .next (s.writeAcc lanes res).advance) :
      yields i res := by
    rw [State.writeAcc_advance] at h
    exact ⟨_, h, rfl, lanesWritten_mergeLanes s.params.nanResult s.draws lanes s.acc res⟩
  exact ⟨hyields _ _ rfl, hyields _ _ rfl⟩

/-- Settles O45: each writes its result, FIPR the inner product and FSQRT the root of the operand that SQRT_OPERAND
names. -/
theorem floatResults : Obligations.FloatResults := by
  intro s dst left right src v1 v2 lanes p operand
  have hoperand : sqrtSource p.sqrtOperand left right = operand := sqrtSource_eq ..
  refine ⟨?_, .of_writeFloat rfl, .of_writeFloat rfl, ?_⟩
  · rw [← on32_dot]
    exact .of_writeFloat rfl
  · rw [← hoperand]
    exact .of_writeFloat rfl

/-- Settles O46: each writes its result, the root that of the operand SQRT_OPERAND names. -/
theorem doubleResults : Obligations.DoubleResults := by
  intro s dst left right src p a b operand
  have hoperand : sqrtSource p.sqrtOperand left right = operand := sqrtSource_eq ..
  rw [← hoperand]
  exact ⟨.of_writeDouble rfl, .of_writeDouble rfl, .of_writeDouble rfl, .of_writeDouble rfl, .of_writeDouble rfl,
    .of_writeDouble rfl, .of_writeDouble rfl⟩

/-- Settles O49: each writes the immediate over zeros. -/
theorem floatingImmediates : Obligations.FloatingImmediates := by
  intro s fr dr vr i21 i22 i23
  rw [← setWidth_shiftLeft_eq_append, ← setWidth_shiftLeft_eq_append, ← setWidth_shiftLeft_eq_append]
  refine ⟨⟨_, rfl, s.onlyFpr_setF 0 fr _, s.onlyFloat_setF fr _, ?_⟩, ⟨_, rfl, s.onlyFpr_setD 0 dr _,
    s.onlyDouble_setD dr _, ?_⟩, ⟨_, rfl, s.onlyFpr_setLanes 0 vr .xyzw _, s.onlyVector_setLanes vr .xyzw _, ?_⟩⟩
  · exact State.getF_setF_self ..
  · exact State.getD_setD_self ..
  · have hdst (value : Vec4) : (s.setV vr value).advance.getV vr = value := State.getV_setLanes_self _ vr .xyzw _
    exact (hdst _).symm ▸ lanesWritten_build _ _ _
end

section
/-! SUPPORT. The conversions between numbers and integers (45_vfpu.md R395, R400 to R412): numbers that a format has are
kept exactly, and a number is rounded to an integer as the rational is. -/

namespace Sys2Proof.Machine

open Sys2Proof

variable {fmt : FpFormat} {params : Params} {mode : Rounding} {neg : Bool} {man p : Nat} {exp : Int}

/-! ### Numbers that a format has -/

/-- A number with no more bits than a format keeps has an aligned mantissa. -/
theorem FpFormat.exists_aligned (hman : man < 2 ^ (fmt.manBits + 1)) (hexp : fmt.minExp ≤ exp) :
    ∃ m e, fmt.Aligned m e ∧ m < 2 ^ (fmt.manBits + 1) ∧ e ≤ exp ∧ (man : ℚ) * 2 ^ exp = m * 2 ^ e := by
  obtain rfl | h0 := eq_or_ne man 0
  · exact ⟨0, fmt.minExp, ⟨le_rfl, .inl rfl⟩, by positivity, hexp, by simp⟩
  · have hbits : Nat.log2 man < fmt.manBits + 1 := (Nat.log2_lt h0).2 hman
    have hle : fmt.lowOf man exp ≤ exp := by
      rw [FpFormat.lowOf]
      omega
    obtain ⟨k, hk⟩ := Int.le.dest hle
    have hlt : man * 2 ^ k < 2 ^ (Nat.log2 man + 1 + k) := by
      rw [pow_add]
      exact Nat.mul_lt_mul_of_pos_right Nat.lt_log2_self (by positivity)
    have hge : 2 ^ (Nat.log2 man + k) ≤ man * 2 ^ k := by
      rw [pow_add]
      exact Nat.mul_le_mul_right _ (Nat.log2_self_le h0)
    refine ⟨man * 2 ^ k, fmt.lowOf man exp, ⟨fmt.lowOf_le man exp, ?_⟩, hlt.trans_le ?_, hle, ?_⟩
    · refine (fmt.lowOf_le man exp).eq_or_lt'.imp_right fun hlow => (Nat.pow_le_pow_right two_pos ?_).trans hge
      rw [FpFormat.lowOf] at hk hlow
      omega
    · refine Nat.pow_le_pow_right two_pos ?_
      rw [FpFormat.lowOf] at hk
      omega
    · conv_lhs => rw [← hk, zpow_add₀ two_ne_zero, zpow_natCast]
      push_cast
      ring

/-- Every rounding direction keeps a number with no more bits than the format keeps. -/
theorem FpFormat.round_exact (hfmt : fmt.ofMachine) (mode : Rounding) (neg : Bool)
    (hman : man < 2 ^ (fmt.manBits + 1)) (hmin : fmt.minExp ≤ exp) (hmax : exp < fmt.maxExp) :
    ∃ m e, fmt.unpack (fmt.round mode neg man exp) = .fin neg m e ∧ (m : ℚ) * 2 ^ e = man * 2 ^ exp := by
  obtain ⟨m, e, haligned, hm, hle, hv⟩ := fmt.exists_aligned hman hmin
  have hfin := (hfmt.magnitudeOf_lt_iff haligned hm.le).2 (.inl (hle.trans_lt hmax))
  rw [haligned.round_eq hm hfin hv]
  exact ⟨m, e, haligned.unpack_eq hm neg hfin, hv.symm⟩

/-- A number of a format, none of them subnormal, is what FP takes its pattern as (log 20). -/
theorem FpFormat.ext_of_number (hfmt : fmt.ofMachine) (hp : fmt.isPattern p) {x : ℚ} (hx : fmt.number p = some x)
    (hbig : x = 0 ∨ 2 ^ fmt.manBits * 2 ^ fmt.minExp ≤ |x|) : ∃ neg, fmt.ext params p = .num neg x := by
  obtain ⟨sign, magnitude, hlt, rfl⟩ := hp.exists_withSign
  rw [FpFormat.ext, fmt.kept_withSign sign hlt]
  by_cases hflush : params.subnormals = .flush ∧ magnitude < 2 ^ fmt.manBits
  · have hsmall := hflush.2
    rw [if_pos hflush]
    have hnumber (m : Nat) (hm : m < 2 ^ fmt.manBits) : fmt.unpack (fmt.withSign sign m) = .fin sign m fmt.minExp := by
      have haligned : fmt.Aligned m fmt.minExp := ⟨le_rfl, .inl rfl⟩
      have hself : fmt.magnitudeOf m fmt.minExp = m := by simp [FpFormat.magnitudeOf]
      have hunpack := haligned.unpack_eq (hm.trans (Nat.pow_lt_pow_succ one_lt_two)) sign
      rw [hself] at hunpack
      exact hunpack (hm.trans (fmt.two_pow_manBits_lt_infPattern hfmt))
    rw [FpFormat.number, hnumber magnitude hsmall] at hx
    cases hx
    have hbelow : (magnitude : ℚ) * 2 ^ fmt.minExp < 2 ^ fmt.manBits * 2 ^ fmt.minExp :=
      mul_lt_mul_of_pos_right (by exact_mod_cast hsmall) (by positivity)
    have hzero := hbig.resolve_right fun hge => hbelow.not_ge (hge.trans_eq (by cases sign <;> simp))
    rw [hnumber 0 (by positivity), hzero]
    exact ⟨sign, by simp⟩
  · rw [FpFormat.number] at hx
    rw [if_neg hflush]
    cases hv : fmt.unpack (fmt.withSign sign magnitude) with
    | nan | inf => rw [hv] at hx; cases hx
    | fin neg m e =>
      rw [hv] at hx
      cases hx
      exact ⟨_, rfl⟩

/-! ### Rounding to an integer -/

/-- An integer rounds to itself. -/
theorem roundRat_intCast (mode : Rounding) (i : Int) : roundRat mode i = i := by
  cases mode <;> simp [roundRat]

/-- Rounding to nearest, by the integer below and what is above it. -/
theorem roundRat_nearestEven (c : Int) {f : ℚ} (h0 : 0 ≤ f) (h1 : f < 1) :
    roundRat .nearestEven (c + f) =
      if f < 1 / 2 then c else if 1 / 2 < f then c + 1 else if c % 2 = 0 then c else c + 1 := by
  have hfloor : ⌊(c : ℚ) + f⌋ = c := by
    rw [Int.floor_eq_iff]
    constructor <;> linarith
  simp only [roundRat, hfloor, add_sub_cancel_left]

/-- Whether the magnitude `q + f` between two integers goes to the upper one. -/
def GoesUp (mode : Rounding) (neg : Bool) (q : Nat) (f : ℚ) : Prop :=
  match mode with
  | .nearestEven => 1 / 2 < f ∨ f = 1 / 2 ∧ q % 2 = 1
  | .towardZero => False
  | .towardPositive => neg = false
  | .towardNegative => neg = true

/-- What is between two integers goes to the one farther from 0 or to the other, as the rounding direction says. -/
theorem roundRat_between {q : Nat} {f : ℚ} (h0 : 0 < f) (h1 : f < 1) (mode : Rounding) (neg up : Bool)
    (hup : up = true ↔ GoesUp mode neg q f) :
    roundRat mode ((if neg then -1 else 1) * (q + f)) =
      (if neg then -1 else 1) * (if up then (q : Int) + 1 else q) := by
  have hfloor : ⌊(q : ℚ) + f⌋ = q := by
    rw [Int.floor_eq_iff, Int.cast_natCast]
    constructor <;> linarith
  have hceil : ⌈(q : ℚ) + f⌉ = q + 1 := by
    rw [Int.ceil_eq_iff]
    push_cast
    constructor <;> linarith
  have hnonneg : 0 ≤ (q : ℚ) + f := by positivity
  have hneg : ¬0 ≤ -((q : ℚ) + f) := by linarith [Nat.cast_nonneg (α := ℚ) q]
  have hbelow : -((q : ℚ) + f) = ((-(q + 1) : Int) : ℚ) + (1 - f) := by
    push_cast
    ring
  have hnearest := roundRat_nearestEven q h0.le h1
  have hnearest' := roundRat_nearestEven (-(q + 1)) (sub_nonneg.2 h1.le) (sub_lt_self 1 h0)
  rw [Int.cast_natCast] at hnearest
  rw [← hbelow] at hnearest'
  generalize (q : ℚ) + f = y at *
  cases mode with
  | towardZero =>
    have hdown : ¬up = true := hup.1
    cases neg
    · simp [roundRat, hdown, hnonneg, hfloor]
    · simp only [roundRat, hdown, if_true, neg_mul, one_mul, if_neg hneg, Int.ceil_neg, hfloor,
        Bool.false_eq_true, if_false]
  | towardPositive =>
    obtain rfl : up = !neg := by cases neg <;> simpa [GoesUp] using hup
    cases neg <;> simp [roundRat, hceil, Int.ceil_neg, hfloor]
  | towardNegative =>
    obtain rfl : up = neg := Bool.eq_iff_iff.2 hup
    cases up <;> simp [roundRat, hceil, Int.floor_neg, hfloor]
  | nearestEven =>
    have hup : up = true ↔ 1 / 2 < f ∨ f = 1 / 2 ∧ q % 2 = 1 := hup
    obtain h | h | h := lt_trichotomy f (1 / 2)
    · rw [if_pos h] at hnearest
      rw [if_neg (by linarith), if_pos (by linarith)] at hnearest'
      have hdown : ¬up = true := by rw [hup]; exact not_or.2 ⟨h.not_gt, fun h' => h.ne h'.1⟩
      cases neg <;> simp [hnearest, hnearest', hdown]
    · rw [if_neg h.not_lt, if_neg h.not_gt] at hnearest
      rw [if_neg (by linarith), if_neg (by linarith)] at hnearest'
      obtain hq | hq := Nat.mod_two_eq_zero_or_one q
      · have hdown : ¬up = true := by rw [hup]; simp [h, hq]
        rw [if_pos (by omega)] at hnearest
        rw [if_neg (by omega)] at hnearest'
        cases neg <;> simp [hnearest, hnearest', hdown]
      · rw [if_neg (by omega)] at hnearest
        rw [if_pos (by omega)] at hnearest'
        cases neg <;> simp [hnearest, hnearest', hup.2 (.inr ⟨h, hq⟩)]
    · rw [if_neg h.not_gt, if_pos h] at hnearest
      rw [if_pos (by linarith)] at hnearest'
      cases neg <;> simp [hnearest, hnearest', hup.2 (.inl h)]

/-- A shifted mantissa with its sign is the rational rounded to an integer. -/
theorem signed_roundShift (mode : Rounding) (neg : Bool) (man k : Nat) :
    (if neg then -(roundShift mode neg man k : Int) else roundShift mode neg man k) =
      roundRat mode ((if neg then -1 else 1) * ((man : ℚ) / 2 ^ k)) := by
  have hpos : (0 : ℚ) < 2 ^ k := by positivity
  have hlt : man % 2 ^ k < 2 ^ k := Nat.mod_lt _ (by positivity)
  have hdiv := Nat.div_add_mod' man (2 ^ k)
  have hsplit : (man : ℚ) / 2 ^ k = (man / 2 ^ k : Nat) + (man % 2 ^ k : Nat) / 2 ^ k := by
    rw [eq_comm, ← mul_left_inj' hpos.ne', add_mul, div_mul_cancel₀ _ hpos.ne', div_mul_cancel₀ _ hpos.ne']
    exact_mod_cast hdiv
  rw [roundShift, hsplit]
  generalize man % 2 ^ k = rem at hlt ⊢
  generalize man / 2 ^ k = q
  obtain rfl | hrem := eq_or_ne rem 0
  · have hself := roundRat_intCast mode ((if neg then -1 else 1) * (q : Int))
    have hdown : roundsUp mode neg (q % 2 == 1) 0 k = false := roundsUp_zero ..
    rw [hdown]
    cases neg
    · simpa using hself.symm
    · simpa using hself.symm
  · have hfrac : (0 : ℚ) < rem / 2 ^ k := div_pos (Nat.cast_pos.2 (Nat.pos_of_ne_zero hrem)) hpos
    have hfrac' : (rem : ℚ) / 2 ^ k < 1 := (div_lt_one hpos).2 (by exact_mod_cast hlt)
    have habove : 1 / 2 < (rem : ℚ) / 2 ^ k ↔ 2 ^ k < 2 * rem := by
      rw [div_lt_div_iff₀ two_pos hpos, one_mul, mul_comm]
      exact_mod_cast Iff.rfl
    have hmiddle : (rem : ℚ) / 2 ^ k = 1 / 2 ↔ 2 * rem = 2 ^ k := by
      rw [div_eq_div_iff hpos.ne' two_ne_zero, one_mul, mul_comm]
      exact_mod_cast Iff.rfl
    rw [roundRat_between hfrac hfrac' mode neg (roundsUp mode neg (q % 2 == 1) rem k)]
    · cases neg <;> cases roundsUp .. <;> simp
    · cases mode with
      | nearestEven => rw [GoesUp, roundsUp_nearestEven, habove, hmiddle, beq_iff_eq]
      | towardZero | towardPositive | towardNegative => simp [GoesUp, roundsUp, hrem]

/-- A finite value times 2^q is rounded to an integer as its number is (45_vfpu.md R404, R412). -/
theorem FpValue.toInteger_of_ext {v : FpValue} {y : ℚ} (h : v.ext = .num neg y) (mode : Rounding) (q : Nat) :
    v.toInteger mode q = some (roundRat mode (y * 2 ^ q)) := by
  cases v with
  | nan | inf => cases h
  | fin neg man exp =>
    cases h
    have hscale : (if neg then -1 else 1) * (man : ℚ) * 2 ^ exp * 2 ^ q =
        (if neg then -1 else 1) * (man * 2 ^ (exp + q)) := by
      rw [zpow_add₀ two_ne_zero, zpow_natCast]
      ring
    rw [FpValue.toInteger, hscale]
    by_cases hexp : 0 ≤ exp + (q : Int)
    · obtain ⟨e, he⟩ := Int.eq_ofNat_of_zero_le hexp
      have hself := roundRat_intCast mode ((if neg then -1 else 1) * (man * 2 ^ e : Nat))
      simp only [he, zpow_natCast, Int.toNat_natCast, if_pos (Int.natCast_nonneg e)]
      cases neg
      · simpa using hself.symm
      · simpa using hself.symm
    · obtain ⟨e, he⟩ := Int.eq_ofNat_of_zero_le (show 0 ≤ -(exp + (q : Int)) by omega)
      have hpow : (2 : ℚ) ^ (exp + (q : Int)) = (2 ^ e)⁻¹ := by
        rw [← neg_neg (exp + (q : Int)), he, zpow_neg, zpow_natCast]
      rw [hpow, ← div_eq_mul_inv, ← signed_roundShift]
      simp only [if_neg hexp, he, Int.toNat_natCast]

/-- A pattern times 2^q is rounded to an integer of N bits, where that is in range. -/
theorem FpFormat.toInteger_of_ext (hp : fmt.isPattern p) {y : ℚ} (h : fmt.ext params p = .num neg y) (q n : Nat)
    (hlow : -(2 ^ (n - 1) : Int) ≤ roundRat params.cvtRound (y * 2 ^ q))
    (hhigh : roundRat params.cvtRound (y * 2 ^ q) < 2 ^ (n - 1)) :
    fmt.toInteger params q n p = some (BitVec.ofInt n (roundRat params.cvtRound (y * 2 ^ q))) := by
  rw [FpFormat.ext_eq_operand params hp] at h
  rw [FpFormat.toInteger, FpValue.toInteger_of_ext h]
  simp [hlow, hhigh]

/-! ### Fixed point -/

/-- An integer is its sign and its magnitude. -/
theorem sign_mul_natAbs (i : Int) : (if decide (i < 0) then -1 else 1) * (i.natAbs : ℚ) = i := by
  rw [Nat.cast_natAbs]
  obtain h | h := lt_or_ge i 0
  · simp [h, abs_of_neg]
  · simp [h, h.not_gt, abs_of_nonneg]

theorem FpFormat.isPattern_ofInteger (fmt : FpFormat) (p : Params) (q : Nat) (i : Int) :
    fmt.isPattern (fmt.ofInteger p q i) := fmt.isPattern_round ..

/-- An integer of 16 bits over 2^q is exact in binary32 (45_vfpu.md R400). -/
theorem number_ofInteger (p : Params) {q : Nat} (hq : q ≤ 15) (i : BitVec 16) :
    binary32.number (binary32.ofInteger p q i.toInt) = some ((i.toInt : ℚ) / 2 ^ q) := by
  have hlow := i.le_toInt
  have hhigh := i.toInt_lt
  have hman : i.toInt.natAbs < 2 ^ (binary32.manBits + 1) := by
    change i.toInt.natAbs < 16777216
    omega
  obtain ⟨m, e, hv, hm⟩ := binary32.round_exact (.inl rfl) p.rounding (i.toInt < 0) (exp := -(q : Int)) hman
    (by change (-149 : Int) ≤ _; omega) (by change _ < (104 : Int); omega)
  rw [FpFormat.number, FpFormat.ofInteger, hv]
  dsimp only
  rw [mul_assoc, hm, ← mul_assoc, sign_mul_natAbs, zpow_neg, zpow_natCast, div_eq_mul_inv]

theorem extractLsb'_append_high {n m : Nat} (a : BitVec n) (b : BitVec m) (start w : Nat) :
    (a ++ b).extractLsb' (m + start) w = a.extractLsb' start w := by
  ext j hj
  simp [BitVec.getLsbD_append, Nat.add_assoc]

theorem extractLsb'_append_low {n m : Nat} (a : BitVec n) (b : BitVec m) : (a ++ b).extractLsb' 0 m = b := by
  ext j hj
  simp [BitVec.getLsbD_append, hj]

/-- Each lane of a packed register is the lane packed there (45_vfpu.md R395). -/
theorem fixLane_packFix (g : Nat → BitVec 16) {k : Nat} (hk : k < 4) : fixLane (packFix g) k = g k := by
  have hskip (a : BitVec 48) (j : Nat) : (a ++ g 0).extractLsb' (16 + j) 16 = a.extractLsb' j 16 :=
    extractLsb'_append_high a (g 0) j 16
  have hskip' (a : BitVec 32) (j : Nat) : (a ++ g 1).extractLsb' (16 + j) 16 = a.extractLsb' j 16 :=
    extractLsb'_append_high a (g 1) j 16
  match k, hk with
  | 0, _ => exact extractLsb'_append_low (g 3 ++ g 2 ++ g 1) (g 0)
  | 1, _ => exact (hskip _ 0).trans (extractLsb'_append_low (g 3 ++ g 2) (g 1))
  | 2, _ => exact (hskip _ 16).trans ((hskip' _ 0).trans (extractLsb'_append_low (g 3) (g 2)))
  | 3, _ => exact (hskip _ 32).trans ((hskip' _ 16).trans
      ((extractLsb'_append_high (g 3) (g 2) 0 16).trans BitVec.extractLsb'_eq_self))

section
variable {i : Instr} {s : State} {q : Nat} {lanes : Lanes}

theorem YieldsFromFixed.of_fixToFloat {dst : VReg} {src : Reg} (hq : q ≤ 15)
    (h : exec i s = .next (s.fixToFloat q dst src lanes).advance) : YieldsFromFixed i s q dst src lanes := by
  obtain ⟨t, ht, hfpr, hvector, hlanes⟩ := YieldsVector.of_writeLanes h
  refine ⟨t, ht, hfpr, hvector, fun k hk => ?_⟩
  have hlane := hlanes k hk
  split
  · rw [if_pos ‹_›] at hlane
    have heq : (t.getV dst).lane k = BitVec.ofNat 32 (binary32.ofInteger s.params q (fixLane (s.getX src) k).toInt) :=
      hlane
    rw [heq, toNat_ofNat_binary32 (binary32.isPattern_ofInteger ..), number_ofInteger s.params hq]
  · rwa [if_neg ‹_›] at hlane

theorem YieldsToFixed.of_floatToFix {dst : Reg} {src : VReg}
    (h : exec i s = .next (s.floatToFix q dst src lanes).advance) : YieldsToFixed i s q dst src lanes := by
  refine ⟨_, h, ⟨?_, fun r hr => (s.tick 4).getX_setX_of_ne dst r _ hr⟩, fun k hk => ?_⟩
  · rw [State.advance_eq]
    rfl
  · have hdst : (s.floatToFix q dst src lanes).advance.getX dst = mergeFix s.draws lanes (s.getX dst) fun k =>
        binary32.toInteger s.params q 16 ((s.getV src).lane k).toNat := State.getX_setX_self ..
    rw [hdst, mergeFix, fixLane_packFix _ hk]
    simp only [Lanes.has, decide_eq_true_eq]
    split
    · intro neg y hy hlow hhigh
      rw [binary32.toInteger_of_ext (isPattern_toNat_binary32 _) hy q 16 hlow (Int.lt_add_one_iff.2 hhigh)]
      rfl
    · rfl

end

/-! ### Integers -/

/-- The conversion of a pattern to an integer (45_vfpu.md R409, R411, R412). -/
theorem YieldsInteger.of_writeResult {i : Instr} {s : State} {dst : Reg} {size : Size} (hp : fmt.isPattern p)
    (h : exec i s = .next (s.writeResult dst size false (fmt.toInteger s.params 0 (Size.bits size) p)).advance) :
    YieldsInteger i s fmt p dst size := by
  refine ⟨fun neg y hy hlow hhigh => ?_, .of_writeResult h⟩
  rw [← mul_one y, ← pow_zero 2] at hlow hhigh ⊢
  rw [fmt.toInteger_of_ext hp hy 0 _ hlow hhigh] at h
  rw [natOfInt_eq]
  exact .of_writeResult h

/-- An integer is rounded to nearest, and gives no subnormal number (45_vfpu.md R408, R410). -/
theorem FpFormat.rounds_ofInteger (hfmt : fmt.ofMachine) (hp : params.rounding = .nearestEven) (i : Int) :
    fmt.rounds params (some (fmt.ofInteger params 0 i)) (.num (i < 0) i) := by
  have hle := hfmt.minExp_add_le
  have hsign : (i : ℚ) = (if decide (i < 0) then -1 else 1) * |(i : ℚ)| := by
    rw [← Int.cast_abs, ← Nat.cast_natAbs, sign_mul_natAbs]
  have hroundsAs : fmt.RoundsAs |((i : ℚ) : ℝ)| i.natAbs (-((0 : Nat) : Int)) := by
    have hself := fmt.roundsAs_self i.natAbs (-((0 : Nat) : Int))
    simpa [Nat.cast_natAbs] using hself
  have hrounds := fmt.rounds_fin hfmt hp hroundsAs hsign
  rw [fmt.result_eq, FpFormat.pack, Option.map_some, fmt.kept_round hfmt] at hrounds
  · exact hrounds
  · right
    rw [FpFormat.lowOf]
    omega

end Sys2Proof.Machine

open Sys2Proof Sys2Proof.Machine

/-- Settles O47: an integer of 16 bits is exact in binary32, and a lane is rounded as its number is. -/
theorem fixedPointConversions : Obligations.FixedPointConversions := by
  intro s vr r lanes
  exact ⟨.of_fixToFloat (by decide) rfl, .of_fixToFloat (by decide) rfl, .of_fixToFloat (by decide) rfl,
    .of_fixToFloat (by decide) rfl, .of_floatToFix rfl, .of_floatToFix rfl, .of_floatToFix rfl, .of_floatToFix rfl⟩

/-- Settles O48: an integer is rounded as a number is, and a number to an integer as the rational is. -/
theorem integerConversions : Obligations.IntegerConversions := by
  intro s fr dr r size i
  have hi : (s.operand r size).toInt = i := by rw [toInt_eq_signedOf, State.operand_toNat]
  refine ⟨?_, ?_, .of_writeResult (isPattern_toNat_binary32 _) rfl,
    .of_writeResult (isPattern_toNat_binary64 _) rfl⟩
  · obtain ⟨t, ht, hfpr, hfloat, hres⟩ := YieldsFloat.of_writeFloat (i := .cvtI2f fr r size) (s := s) rfl
    refine ⟨t, ht, hfpr, hfloat, fun hp => ?_⟩
    have heq : t.getF fr = BitVec.ofNat 32 (binary32.ofInteger s.params 0 i) := hi ▸ hres
    rw [heq, toNat_ofNat_binary32 (binary32.isPattern_ofInteger ..)]
    exact binary32.rounds_ofInteger (.inl rfl) hp i
  · obtain ⟨t, ht, hfpr, hdouble, hres⟩ := YieldsDouble.of_writeDouble (i := .cvtI2d dr r size) (s := s) rfl
    refine ⟨t, ht, hfpr, hdouble, fun hp => ?_⟩
    have heq : t.getD dr = BitVec.ofNat 64 (binary64.ofInteger s.params 0 i) := hi ▸ hres
    rw [heq, toNat_ofNat_binary64 (binary64.isPattern_ofInteger ..)]
    exact binary64.rounds_ofInteger (.inr rfl) hp i
end

section
/-! SUPPORT. Conversions there and back (45_vfpu.md R392, R393, R400 to R407): what a wider format has exactly comes
back as it was. -/

namespace Sys2Proof.Machine

open Sys2Proof

variable {params : Params} {k : Nat}

/-! ### Floats and doubles -/

/-- What FP takes a float as is no NaN where the float is none. -/
theorem FpFormat.unpack_kept_ne_nan {fmt : FpFormat} (hfmt : fmt.ofMachine) {p : Nat} (hp : fmt.isPattern p)
    (h : fmt.unpack p ≠ .nan) : fmt.unpack (fmt.kept params p) ≠ .nan := by
  obtain ⟨neg, magnitude, hlt, rfl⟩ := hp.exists_withSign
  rw [fmt.kept_withSign neg hlt]
  split
  · intro hnan
    have hzero := fmt.number_zero hfmt neg
    rw [FpFormat.number, hnan] at hzero
    cases hzero
  · exact h

/-- A double that a float converts to is the float's value, no subnormal number, and packs to the float. -/
theorem exists_double (params : Params) (hk : binary32.isPattern k) (hnan : binary32.unpack k ≠ .nan) :
    ∃ r, binary64.result params (binary32.unpack k) = some r ∧ binary64.isPattern r ∧
      binary64.kept params r = r ∧ binary32.pack params.rounding (binary64.unpack r) = some k := by
  rw [binary64.result_eq]
  cases hv : binary32.unpack k with
  | nan => exact absurd hv hnan
  | inf neg =>
    have hkept := binary64.kept_infPattern (params := params) (.inr rfl) neg
    refine ⟨_, congrArg some hkept, binary64.isPattern_withSign neg binary64.infPattern_lt, hkept, ?_⟩
    rw [binary64.unpack_infPattern neg, FpFormat.pack, ← hk.eq_infPattern hv]
  | fin neg m e =>
    obtain ⟨haligned, hm, hfin, hpattern⟩ := hk.aligned hv
    have hmin : -149 ≤ e := haligned.minExp_le
    have hmax : e ≤ 104 := by
      have hbelow := (FpFormat.ofMachine.magnitudeOf_lt_iff (.inl rfl) haligned hm.le).1 hfin
      exact hbelow.elim le_of_lt fun ⟨h, _⟩ => h.le
    have hman : m < 2 ^ (binary64.manBits + 1) := hm.trans (by decide)
    obtain ⟨m', e', hunpack, hvalue⟩ := binary64.round_exact (.inr rfl) params.rounding neg hman
      (show (-1074 : Int) ≤ e by omega) (show e < (971 : Int) by omega)
    have hkept : binary64.kept params (binary64.round params.rounding neg m e) =
        binary64.round params.rounding neg m e := by
      refine binary64.kept_round (.inr rfl) _ _ (.inr ?_)
      have hlow : e + ((Nat.log2 m + 1 : Nat) : Int) - ((52 + 1 : Nat) : Int) ≤ binary64.lowOf m e := le_max_left ..
      have hleast : binary64.minExp = -1074 := rfl
      omega
    refine ⟨_, congrArg some hkept, binary64.isPattern_round .., hkept, ?_⟩
    rw [hunpack, FpFormat.pack, haligned.round_eq hm hfin hvalue, ← hpattern]

/-! ### Fixed point -/

/-- What comes back of a lane that a float holds exactly. -/
theorem fixedPoint_roundTrip {up down : Instr} {s t : State} {n : Nat} {v : VReg} {r q : Reg} {lanes : Lanes}
    (hn : n ≤ 15) (hup : YieldsFromFixed up s n v r lanes) (hdown : YieldsToFixed down t n q v lanes)
    (h : exec up s = .next t) :
    ∃ u, exec down t = .next u ∧ ∀ k, k ≤ lanes.toField → fixLane (u.getX q) k = fixLane (s.getX r) k := by
  obtain ⟨t', ht, -, -, hlanes⟩ := hup
  obtain rfl : t = t' := Host.Outcome.next.inj (h.symm.trans ht)
  obtain ⟨u, hu, -, hfix⟩ := hdown
  refine ⟨u, hu, fun k hk => ?_⟩
  have hk4 : k < 4 := hk.trans_lt (by cases lanes <;> decide)
  have hnumber := hlanes k hk4
  have hlane := hfix k hk4
  rw [if_pos hk] at hnumber hlane
  generalize fixLane (s.getX r) k = i at hnumber ⊢
  have hlow := i.le_toInt
  have hhigh := i.toInt_lt
  have hbig : (i.toInt : ℚ) / 2 ^ n = 0 ∨ 2 ^ binary32.manBits * 2 ^ binary32.minExp ≤ |(i.toInt : ℚ) / 2 ^ n| := by
    obtain h0 | h0 := eq_or_ne i.toInt 0
    · exact .inl (by rw [h0, Int.cast_zero, zero_div])
    · right
      have hone : (1 : ℚ) ≤ |(i.toInt : ℚ)| := by exact_mod_cast Int.one_le_abs h0
      have hpow : (2 : ℚ) ^ n ≤ 2 ^ 15 := pow_le_pow_right₀ one_le_two hn
      have hleast : (2 : ℚ) ^ binary32.manBits * 2 ^ binary32.minExp ≤ 1 / 2 ^ 15 := by
        norm_num [binary32, FpFormat.minExp]
      rw [abs_div, abs_of_pos (show (0 : ℚ) < 2 ^ n by positivity)]
      exact hleast.trans (div_le_div₀ (abs_nonneg _) hone (by positivity) hpow)
  obtain ⟨neg, hext⟩ := FpFormat.ext_of_number (params := t.params) (.inl rfl) (isPattern_toNat_binary32 _) hnumber hbig
  have hself : roundRat t.params.cvtRound ((i.toInt : ℚ) / 2 ^ n * 2 ^ n) = i.toInt := by
    rw [div_mul_cancel₀ _ (by positivity), roundRat_intCast]
  rw [hlane neg _ hext (by rw [hself]; exact hlow) (by rw [hself]; exact Int.lt_add_one_iff.1 hhigh), hself,
    BitVec.ofInt_toInt]

end Sys2Proof.Machine

open Sys2Proof Sys2Proof.Machine

/-- Settles O59: the double is the float's value, and packs to the float. -/
theorem floatDoubleFloatRoundTrip : Obligations.FloatDoubleFloatRoundTrip := by
  intro s t d f g hnan hexec
  have hpattern := isPattern_toNat_binary32 (s.getF f)
  obtain ⟨r, hresult, hr, hkept, hpack⟩ := exists_double s.params (hpattern.kept (params := s.params))
    (FpFormat.unpack_kept_ne_nan (.inl rfl) hpattern hnan)
  have hup : binary32.convert binary64 s.params (s.getF f).toNat = some r := by
    rw [FpFormat.convert, FpFormat.operand, FpFormat.flushed_eq_kept _ hpattern, hresult]
  obtain ⟨t', ht, hfpr, -, hd⟩ := YieldsDouble.of_writeDouble (i := .cvtF2d d f) (s := s) rfl
  obtain rfl : t = t' := Host.Outcome.next.inj (hexec.symm.trans ht)
  rw [hup] at hd
  have hparams : t.params = s.params := by rw [hfpr]
  have hdouble : (t.getD d).toNat = r := by
    rw [show t.getD d = BitVec.ofNat 64 r from hd, toNat_ofNat_binary64 hr]
  have hdown : binary64.convert binary32 t.params (t.getD d).toNat =
      some (binary32.kept s.params (s.getF f).toNat) := by
    rw [hparams, hdouble, FpFormat.convert, FpFormat.operand, FpFormat.flushed_eq_kept _ hr, hkept, FpFormat.result_eq,
      hpack, Option.map_some, hpattern.kept_kept]
  obtain ⟨u, hu, -, -, hg⟩ := YieldsFloat.of_writeFloat (i := .cvtD2f g d) (s := t) rfl
  rw [hdown] at hg
  exact ⟨u, hu, by rw [show u.getF g = BitVec.ofNat 32 _ from hg, toNat_ofNat_binary32 hpattern.kept]⟩

/-- Settles O60: the float holds the lane exactly, and what is exact is rounded to itself. -/
theorem fixedPointRoundTrip : Obligations.FixedPointRoundTrip := by
  intro s t v r q lanes up down hpair hexec
  obtain ⟨hup0, hup4, hup8, hup15, -⟩ := fixedPointConversions s v r lanes
  obtain ⟨-, -, -, -, hdown0, hdown4, hdown8, hdown15⟩ := fixedPointConversions t v q lanes
  simp only [List.mem_cons, List.not_mem_nil, or_false, Prod.mk.injEq] at hpair
  obtain ⟨rfl, rfl⟩ | ⟨rfl, rfl⟩ | ⟨rfl, rfl⟩ | ⟨rfl, rfl⟩ := hpair
  · exact fixedPoint_roundTrip (by decide) hup0 hdown0 hexec
  · exact fixedPoint_roundTrip (by decide) hup4 hdown4 hexec
  · exact fixedPoint_roundTrip (by decide) hup8 hdown8 hexec
  · exact fixedPoint_roundTrip (by decide) hup15 hdown15 hexec
end

section
/-! SUPPORT. A stopped core: no step but the engine's, and what a turn of the engine leaves (40_bundle.md R174,
60_exceptions.md R441). -/

namespace Sys2Proof.Machine

open Sys2Proof

variable {s t : State}

/-! ### A turn of the engine -/

theorem State.onlyEngine_setMem (s : State) (sp : Space) (m : Memory) : s.OnlyEngine (s.setMem sp m) := by
  cases sp <;> rfl

/-- A copied byte is written to a memory, and the transfer's record changes. -/
theorem State.onlyEngine_of_copyByte {j k : Nat} {tr : Transfer} (h : s.copyByte j tr k = .next t) :
    s.OnlyEngine t := by
  obtain ⟨b, -, hcase⟩ := State.copyByte_next h
  have hwritten := s.onlyEngine_setMem tr.dst ((s.mem tr.dst).set (tr.dstAddr + k) b)
  obtain ⟨-, rfl⟩ | ⟨-, rfl⟩ := hcase <;> exact hwritten.trans rfl

/-- A turn of the engine leaves the core (40_bundle.md R174), in every state. -/
theorem State.onlyEngine_of_engineMove (h : s.engineMove = .next t) : s.OnlyEngine t := by
  have hpick : s.OnlyEngine s.pickTaken := by
    rw [State.pickTaken_eq]
    rfl
  obtain rfl | ⟨j, tr, -, rfl | ⟨k, -, hcopy⟩⟩ := State.engineMove_next h
  · exact hpick
  · exact hpick.trans rfl
  · exact hpick.trans (State.onlyEngine_of_copyByte hcopy)

/-! ### No step -/

/-- What a stopped machine answers when it has no step is not recorded again (log 14). -/
theorem stepState_of_stopped (hstop : s.status ≠ .running) (hno : ∀ t, step s ≠ .next t) : stepState s = s := by
  rw [stepState]
  cases hstep : step s with
  | next t => exact absurd hstep (hno t)
  | fault e => exact if_neg hstop
  | refused r => exact if_neg hstop

end Sys2Proof.Machine

open Sys2Proof Sys2Proof.Machine

/-- Settles O13: a running machine's stop is recorded in the status, and a stopped core leaves every step to the
engine. -/
theorem stopsLeaveTheStateAndLast : Obligations.StopsLeaveTheStateAndLast := by
  refine fun s => ⟨fun _ hrun h => stepState_of_fault hrun h, fun _ hrun h => stepState_of_refused hrun h,
    fun hstop hidle => ?_, fun t hstop h => ?_⟩
  · have hno (t : State) (h : step s = .next t) : False := (step_stopped hstop h).1 hidle
    exact ⟨hno, stepState_of_stopped hstop hno⟩
  · exact State.onlyEngine_of_engineMove (step_stopped hstop h).2
end
